-- ==== Sys2Proof/Word.lean ====
section
/-! DEFINITION. The word types of the core (spec 00_scope R7): 32-bit words, bytes, and 4-bit register indices, all unsigned. -/

namespace Sys2Proof

/-- A 32-bit word, unsigned, wrapping modulo 2^32 (R7, R80). -/
abbrev Word := BitVec 32

/-- A byte (R7). -/
abbrev Byte := BitVec 8

/-- A 4-bit index into `v` or `m` (R30, R52). -/
abbrev Index := BitVec 4

end Sys2Proof
end

