-- ==== Sys2Proof/Syntax.lean ====
section
/-! DEFINITION. The eleven control words (spec 30_encoding R57), one constructor per row of opcode_table.json, fields at their encoded widths (R59). -/

namespace Sys2Proof

/-- A control word with its operand fields (R50 to R57). -/
inductive Instr where
  /-- `G a,b,c,d,sx,sy` (R52, R82). -/
  | g (a b c d sx sy : Index)
  /-- `VINIT` (R91). -/
  | vinit
  /-- `FOLD` (R93). -/
  | fold
  /-- `ROUND r` (R53, R92). -/
  | round (r : Index)
  /-- `F` (R94). -/
  | f
  /-- `INIT n,k` (R54, R110). -/
  | init (n k : Byte)
  /-- `ABSORB` (R131). -/
  | absorb
  /-- `FINAL len` (R55, R132). -/
  | final (len : BitVec 7)
  /-- `EXTRACT` (R150). -/
  | extract
  /-- `HASH n,klen,slen,plen` (R56, R160). -/
  | hash (n klen : Byte) (slen plen : Index)
  /-- `HASH256` (R162). -/
  | hash256
deriving DecidableEq, Repr

end Sys2Proof
end

