-- ==== Sys2Proof/WellFormed.lean ====
section
/-! DEFINITION. The operand checks of a legal control word (spec 30_encoding R58), one named check per constraint. -/

namespace Sys2Proof

/-- G's four indices are pairwise different (R58, R84); `sx` and `sy` are free. -/
def distinctIndices (a b c d : Index) : Bool :=
  a != b && a != c && a != d && b != c && b != d && c != d

/-- ROUND's index is at most 9 (R53, R58). -/
def roundInRange (r : Index) : Bool := r.toNat ≤ 9

/-- FINAL's length is at most 64 (R55, R58). -/
def lengthInRange (len : BitVec 7) : Bool := len.toNat ≤ 64

/-- The operand fields are in range (R58). INIT and HASH accept every value here: their lengths are checked by their
meanings, which raise ConfigError. -/
def wellFormed : Instr → Bool
  | .g a b c d _ _ => distinctIndices a b c d
  | .vinit => true
  | .fold => true
  | .round r => roundInRange r
  | .f => true
  | .init _ _ => true
  | .absorb => true
  | .final len => lengthInRange len
  | .extract => true
  | .hash _ _ _ _ => true
  | .hash256 => true

end Sys2Proof
end

