-- ==== Sys2Proof/Decode.lean ====
section
/-! DEFINITION. The decoder, driven by the opcode map (spec 30_encoding R57, R58), the encoder (R51 to R56), and the host's decodeTableWord. -/

namespace Sys2Proof

/-- Why a word is no legal control word (R58). Every one of them is the exception IllegalControlWord, code 5 (R186). -/
inductive DecodeError where
  /-- `op` is 0x0 or 0xC to 0xF. -/
  | reservedOpcode
  /-- A nonzero bit in 27:24 or in a field the format shows as 0. -/
  | reservedBits
  /-- G with two equal indices among a, b, c, d. -/
  | equalIndices
  /-- ROUND with r = 10 to 15. -/
  | roundOutOfRange
  /-- FINAL with len = 65 to 127. -/
  | lengthOutOfRange
deriving DecidableEq, Repr

/-- Field `[lo+3:lo]` (R59). -/
def nibble (w : Word) (lo : Nat) : Index := w.extractLsb' lo 4

/-- Field `[lo+7:lo]` (R59). -/
def octet (w : Word) (lo : Nat) : Byte := w.extractLsb' lo 8

/-- A row of the opcode map (R57): a word is this operation when `w & mask = pattern`. -/
structure OpcodeRow where
  mask : Word
  pattern : Word
  fields : Word → Instr

/-- The opcode map (R57), in opcode order. -/
def opcodeRows : List OpcodeRow := [
  ⟨0xFF000000, 0x10000000, fun w => .g (nibble w 20) (nibble w 16) (nibble w 12) (nibble w 8) (nibble w 4) (nibble w 0)⟩,
  ⟨0xFFFFFFFF, 0x20000000, fun _ => .vinit⟩,
  ⟨0xFFFFFFFF, 0x30000000, fun _ => .fold⟩,
  ⟨0xFFFFFFF0, 0x40000000, fun w => .round (nibble w 0)⟩,
  ⟨0xFFFFFFFF, 0x50000000, fun _ => .f⟩,
  ⟨0xFFFF0000, 0x60000000, fun w => .init (octet w 0) (octet w 8)⟩,
  ⟨0xFFFFFFFF, 0x70000000, fun _ => .absorb⟩,
  ⟨0xFFFFFF80, 0x80000000, fun w => .final (w.extractLsb' 0 7)⟩,
  ⟨0xFFFFFFFF, 0x90000000, fun _ => .extract⟩,
  ⟨0xFF000000, 0xA0000000, fun w => .hash (octet w 0) (octet w 8) (nibble w 16) (nibble w 20)⟩,
  ⟨0xFFFFFFFF, 0xB0000000, fun _ => .hash256⟩]

/-- The row selects the word (R57). -/
def OpcodeRow.selects (row : OpcodeRow) (w : Word) : Bool := w &&& row.mask == row.pattern

/-- Which operand check an ill-formed instruction fails; `none` for a well-formed one (R58). -/
def operandError : Instr → Option DecodeError
  | .g a b c d _ _ => if distinctIndices a b c d then none else some .equalIndices
  | .vinit => none
  | .fold => none
  | .round r => if roundInRange r then none else some .roundOutOfRange
  | .f => none
  | .init _ _ => none
  | .absorb => none
  | .final len => if lengthInRange len then none else some .lengthOutOfRange
  | .extract => none
  | .hash _ _ _ _ => none
  | .hash256 => none

/-- Why no row selects the word: its opcode is reserved, or a bit that must be 0 is not (R58). -/
def reservedError (w : Word) : DecodeError :=
  if (nibble w 28).toNat = 0 ∨ 11 < (nibble w 28).toNat then .reservedOpcode else .reservedBits

/-- The decoder (R57, R58): the row that selects the word, then the operand check. Total on every 32-bit word. -/
def decode (w : Word) : Except DecodeError Instr :=
  match opcodeRows.find? (·.selects w) with
  | none => .error (reservedError w)
  | some row =>
    match operandError (row.fields w) with
    | some e => .error e
    | none => .ok (row.fields w)

/-- The encoder, from the formats Z, M, R, I, L, H (R51 to R56). -/
def encode : Instr → Word
  | .g a b c d sx sy => 0x10#8 ++ a ++ b ++ c ++ d ++ sx ++ sy
  | .vinit => 0x2#4 ++ 0#28
  | .fold => 0x3#4 ++ 0#28
  | .round r => 0x4#4 ++ 0#24 ++ r
  | .f => 0x5#4 ++ 0#28
  | .init n k => 0x6#4 ++ 0#12 ++ k ++ n
  | .absorb => 0x7#4 ++ 0#28
  | .final len => 0x8#4 ++ 0#21 ++ len
  | .extract => 0x9#4 ++ 0#28
  | .hash n klen slen plen => 0xA0#8 ++ plen ++ slen ++ klen ++ n
  | .hash256 => 0xB#4 ++ 0#28

/-- The host's question: the instruction the decoder reads from the word whose low `nbits` bits are `w`, every higher
bit 0. A control word is one 32-bit word (R50), so the table's numbering is the spec's. -/
def decodeTableWord (nbits w : Nat) : Option Instr :=
  match decode (BitVec.ofNat 32 (w % 2 ^ nbits)) with
  | .ok i => some i
  | .error _ => none

end Sys2Proof
end

