-- ==== Sys2Proof/Config.lean ====
section
/-! DEFINITION. What the spec leaves to a platform (MAX_INPUT) and the free values: contents the spec leaves open. -/

namespace Sys2Proof.Config

/-- MAX_INPUT in bytes (00_scope R6, 92_eei_decisions D25, 93 U14): key block plus message may not exceed it.
The default of D25, 2^64 - 1 (log entry 11). -/
def maxInput : Nat := 2 ^ 64 - 1

/-- FREE VALUE (log entries 7, 8): the content of a 32-bit register the spec says holds "any value" (10_state R10,
45 R153, 93 U6, U7). Arguments: how many draws came before, and which word is meant. No body: nothing can be proved of it. -/
opaque deadWord : Nat → Nat → BitVec 32

/-- FREE VALUE (log entries 7, 8): the content of a byte the spec says holds "any value" (R153, R210, U7, U9). -/
opaque deadByte : Nat → Nat → BitVec 8

/-- FREE VALUE (log entry 8): the content of the last-block flag where the spec says "any value" (R153, R210, U7). -/
opaque deadFlag : Nat → Bool

end Sys2Proof.Config
end

