-- ==== Sys2Proof/Machine/State.lean ====
section
/-! DEFINITION. The state of the core as plain data (spec 10_state R10 to R27), the host port (46 R164, R167), the causes, faults and refusals, and the state after reset (R27, R210). -/

namespace Sys2Proof.Machine

/-- The phase register (R20); value 3 never occurs. -/
inductive Phase where
  /-- Rest state, value 0. -/
  | idle
  /-- Non-final blocks are compressed, value 1. -/
  | continuing
  /-- The final block has been or is being compressed, value 2. -/
  | final
deriving DecidableEq, Repr

/-- The synchronous exceptions and their causes (60_exceptions R181). An exception is a next state, never a stop (R184). -/
inductive Cause where
  | badDigestLength
  | badKeyLength
  | badSaltLength
  | badPersLength
  | illegalControlWord
  | protocolError
deriving DecidableEq, Repr

/-- The request record (46 R164). -/
structure Request where
  cw : Word
  keyD : Vector Byte 32
  saltD : Vector Byte 8
  persD : Vector Byte 8
  msg : List Byte
deriving DecidableEq, Repr

/-- The response record (46 R164): the digest is absent when `status` is not 0. -/
structure Response where
  status : Byte
  digest : Option (List Byte)
deriving DecidableEq, Repr

/-- Which registers have been written since reset (60_exceptions R187, R27); `t` stands for t0 and t1. Log entry 5. -/
structure Written where
  v : Bool
  m : Bool
  h : Bool
  t : Bool
  f0 : Bool
  key : Bool
  salt : Bool
  pers : Bool
deriving DecidableEq, Repr

/-- The whole state. `v` to `status` are the spec's registers (10_state); `request` to `digestOut` the host port;
`written` is R187's record of what has been written; `draws` is the model's own (log entry 9). -/
structure State where
  v : Vector Word 16
  h : Vector Word 8
  m : Vector Word 16
  t0 : Word
  t1 : Word
  f0 : Bool
  f1 : Bool
  nn : Byte
  kk : Byte
  key : Vector Byte 32
  salt : Vector Byte 8
  pers : Vector Byte 8
  B : Vector Byte 64
  D : Vector Byte 32
  inq : List Byte
  phase : Phase
  pc : BitVec 7
  status : Byte
  request : Request
  pending : Bool
  resetPin : Bool
  response : Option Response
  digestOut : Option (List Byte)
  written : Written
  draws : Nat
deriving DecidableEq, Repr

/-- No step of this core stops with a fault: every error the spec describes is an exception after which the machine
goes on (R184), so there is no reason to list. An empty type: safe. -/
inductive Fault where
deriving DecidableEq, Repr

/-- Why the model gives a run no meaning. -/
inductive Refusal where
  /-- Raised only by an arm of `exec` that has no meaning yet. Safe. -/
  | notModelled (mnemonic : String)
  /-- Raised by HASH and HASH256 when key block plus message is longer than MAX_INPUT (R164, D25, U14: "longer inputs
  refuse"). Safe: the model stops. -/
  | inputTooLong
  /-- Raised by ABSORB and FINAL when the byte counter would pass 2^64 - 1 (R133, U3: "the counter never wraps").
  Safe: the model stops. -/
  | counterOverflow
deriving DecidableEq, Repr

/-- Nothing has been written since reset. -/
def Written.none : Written := ⟨false, false, false, false, false, false, false, false⟩

/-- The request inputs at reset: no request stands there (log entry 4). -/
def Request.blank : Request :=
  ⟨0, Vector.replicate 32 0, Vector.replicate 8 0, Vector.replicate 8 0, []⟩

/-- The machine right after reset (R27, R210): phase IDLE, pc 0, status 0, inq empty, f1 0; every other register is
"unspecified" in the spec and 0 here (DESIGN CHOICE, unsafe, log entry 4), and marked as not written. -/
def State.reset : State where
  v := Vector.replicate 16 0
  h := Vector.replicate 8 0
  m := Vector.replicate 16 0
  t0 := 0
  t1 := 0
  f0 := false
  f1 := false
  nn := 0
  kk := 0
  key := Vector.replicate 32 0
  salt := Vector.replicate 8 0
  pers := Vector.replicate 8 0
  B := Vector.replicate 64 0
  D := Vector.replicate 32 0
  inq := []
  phase := .idle
  pc := 0
  status := 0
  request := Request.blank
  pending := false
  resetPin := false
  response := none
  digestOut := none
  written := Written.none
  draws := 0

end Sys2Proof.Machine
end

