-- ==== Sys2Proof/Machine/Flags.lean ====
section
/-! DEFINITION. The last-block flag (spec 10_state R14) and the 64-bit byte counter (10_state R13, 44 R133). There are no arithmetic flags (R14). -/

namespace Sys2Proof.Machine

/-- The byte counter `t = t1 * 2^32 + t0` (R13, R133). -/
def counter (s : State) : Nat := s.t1.toNat * 2 ^ 32 + s.t0.toNat

/-- The counter set to a 64-bit value: `t0` the low word, `t1` the high word (R13). -/
def setCounter (t : Nat) (s : State) : State :=
  { s with t0 := BitVec.ofNat 32 t, t1 := BitVec.ofNat 32 (t / 2 ^ 32), written := { s.written with t := true } }

/-- The counter increment of ABSORB and FINAL, with the carry from `t0` into `t1` (R133). -/
def advanceCounter (inc : Nat) (s : State) : State := setCounter (counter s + inc) s

/-- The increment would pass 2^64 - 1, which the spec puts outside the model (R133, U3). -/
def counterPasses (inc : Nat) (s : State) : Bool := 2 ^ 64 ≤ counter s + inc

/-- `f0` is cleared by INIT and set by FINAL (R14). -/
def setLastBlock (b : Bool) (s : State) : State :=
  { s with f0 := b, written := { s.written with f0 := true } }

end Sys2Proof.Machine
end

