-- ==== Sys2Proof/Machine/Arith.lean ====
section
/-! DEFINITION. The word arithmetic of the core: rotation (spec 41 R81), little-endian packing and byte selection (00 R7, 20 R31, R32). Addition and XOR are those of BitVec 32, which wrap modulo 2^32 (R80). -/

namespace Sys2Proof.Machine

/-- `rotr32(w, s)` for 0 < s < 32 (R7, R81). -/
def rotr32 (w : Word) (s : Nat) : Word := w >>> s ||| w <<< (32 - s)

/-- `le32(b0, b1, b2, b3)` (R7): byte 0 is the least significant. -/
def le32 (b0 b1 b2 b3 : Byte) : Word := b3 ++ b2 ++ b1 ++ b0

/-- Byte `j` of a word, `w[8j+7:8j]` (R7). -/
def byteOf (w : Word) (j : Nat) : Byte := w.extractLsb' (8 * j) 8

end Sys2Proof.Machine
end

