-- ==== Sys2Proof/Machine/Operands.lean ====
section
/-! DEFINITION. Operand access: registers of `v` and `m` by 4-bit index (spec 20 R30, 41 R82), length operands and their checks (60 R181, R183), and the request's zero-filled byte fields (46 R161, R165). -/

namespace Sys2Proof.Machine

/-- Register `i` of a 16-register file (`v` or `m`). -/
def getReg (file : Vector Word 16) (i : Index) : Word := file[i.toNat]'i.isLt

/-- The file with register `i` replaced. -/
def setReg (file : Vector Word 16) (i : Index) (x : Word) : Vector Word 16 := file.set i.toNat x i.isLt

/-- INIT's length checks, the digest length first (R111, R183). -/
def initLengthError (n k : Byte) : Option Cause :=
  if n.toNat < 1 ∨ 32 < n.toNat then some .badDigestLength
  else if 32 < k.toNat then some .badKeyLength
  else none

/-- HASH's four length checks, lowest code first (R161, R181, R183). -/
def hashLengthError (n klen : Byte) (slen plen : Index) : Option Cause :=
  if n.toNat < 1 ∨ 32 < n.toNat then some .badDigestLength
  else if 32 < klen.toNat then some .badKeyLength
  else if 8 < slen.toNat then some .badSaltLength
  else if 8 < plen.toNat then some .badPersLength
  else none

/-- The first `len` bytes of a request field, zeros beyond (R161, R165, D26). -/
def zeroFill {n : Nat} (bytes : Vector Byte n) (len : Nat) : Vector Byte n :=
  Vector.ofFn fun j => if j.val < len then bytes[j] else 0

/-- The key block `key[0..k) ++ zeros(64 - k)` (R115). -/
def keyBlock (key : Vector Byte 32) (k : Nat) : List Byte :=
  key.toList.take k ++ List.replicate (64 - k) 0

end Sys2Proof.Machine
end

