-- ==== Sys2Proof/Machine/Ops.lean ====
section
/-! DEFINITION. The shared operations: taking an exception (spec 60 R184), the outcome of a control word, the byte buffers (20 R34 to R36), dead registers (10 R10, 45 R153), the response and reset (46 R161, 70 R210). -/

namespace Sys2Proof.Machine

/-! ### Exceptions and results -/

/-- The code of a cause, the value of `status` (R181). -/
def Cause.code : Cause → Byte
  | .badDigestLength => 1
  | .badKeyLength => 2
  | .badSaltLength => 3
  | .badPersLength => 4
  | .illegalControlWord => 5
  | .protocolError => 6

/-- TAKING AN EXCEPTION (R184): `status <- code`, the response (code, no digest); nothing is saved, no mode changes, no
other register is written, and the core is ready for the next request. There is no return to take (R185). -/
def takeException (c : Cause) (s : State) : State :=
  { s with status := c.code, response := some ⟨c.code, none⟩ }

/-- What executing a control word gives: the state after it; an exception, with the state in which the raising word
found the machine (its own effects undone, R184); or a refusal. -/
inductive Result where
  | done (s : State)
  | raised (c : Cause) (s : State)
  | refused (r : Refusal)
deriving DecidableEq, Repr

/-- `issue` one word after another: an exception or a refusal abandons what follows (R8, R184). -/
def Result.andThen (r : Result) (k : State → Result) : Result :=
  match r with
  | .done s => k s
  | .raised c s => .raised c s
  | .refused e => .refused e

/-- The end of the control word the port was given: an exception is taken, and its entry is the next state (R184). -/
def Result.conclude (r : Result) : Host.Outcome State Fault Refusal :=
  match r with
  | .done s => .next s
  | .raised c s => .next (takeException c s)
  | .refused e => .refused e

/-! ### The byte buffers -/

/-- The word at byte address `4i` of the block buffer (R34). -/
def blockWord (B : Vector Byte 64) (i : Fin 16) : Word :=
  le32 B[4 * i.val] B[4 * i.val + 1] B[4 * i.val + 2] B[4 * i.val + 3]

/-- `MemRead(addr, n)` (R34): defined for `n = 4` and addresses 0, 4, ..., 60 only. -/
def memRead (B : Vector Byte 64) (addr n : Nat) : Option Word :=
  if h : n = 4 ∧ addr % 4 = 0 ∧ addr ≤ 60 then some (blockWord B ⟨addr / 4, by omega⟩) else none

/-- The digest buffer after a word is written at byte address `4i` (R34). -/
def putWord (D : Vector Byte 32) (i : Fin 8) (e : Word) : Vector Byte 32 :=
  (((D.set (4 * i.val) (byteOf e 0)).set (4 * i.val + 1) (byteOf e 1)).set (4 * i.val + 2) (byteOf e 2)).set
    (4 * i.val + 3) (byteOf e 3)

/-- `MemWrite(addr, n, e)` (R34): defined for `n = 4` and addresses 0, 4, ..., 28 only. -/
def memWrite (D : Vector Byte 32) (addr n : Nat) (e : Word) : Option (Vector Byte 32) :=
  if h : n = 4 ∧ addr % 4 = 0 ∧ addr ≤ 28 then some (putWord D ⟨addr / 4, by omega⟩ e) else none

/-- The block buffer filled with the first `len` bytes of the queue, zeros beyond (R17, R36, R131, R132). -/
def fillBlock (inq : List Byte) (len : Nat) : Vector Byte 64 :=
  Vector.ofFn fun j => if j.val < len then inq.getD j.val 0 else 0

/-- LDM (R35): `m[i] <- MemRead(4*i, 4)` for all sixteen words. -/
def loadMessage (B : Vector Byte 64) : Vector Word 16 := Vector.ofFn fun i => blockWord B i

/-- The next `len` bytes leave the queue for `B`, padded with zeros, and LDM loads `m` (R131, R132). -/
def takeBlock (len : Nat) (s : State) : State :=
  { s with
    B := fillBlock s.inq len
    m := loadMessage (fillBlock s.inq len)
    inq := s.inq.drop len
    written := { s.written with m := true } }

/-- `MemWrite(4*i, 4, h[i])` for `i` in 0 to 7 (R150, R151). -/
def serialize (h : Vector Word 8) (D : Vector Byte 32) : Vector Byte 32 :=
  putWord (putWord (putWord (putWord (putWord (putWord (putWord (putWord D 0 h[0]) 1 h[1]) 2 h[2]) 3 h[3]) 4 h[4]) 5 h[5])
    6 h[6]) 7 h[7]

/-! ### Dead registers -/

/-- `n` words of free values (log entries 7, 8). -/
def deadWords (n draw base : Nat) : Vector Word n := Vector.ofFn fun i => Config.deadWord draw (base + i.val)

/-- `n` bytes of free values (log entry 8). -/
def deadBytes (n draw base : Nat) : Vector Byte n := Vector.ofFn fun i => Config.deadByte draw (base + i.val)

/-- After FOLD the content of `v` is dead: any value (R10, U6; log entry 7). DESIGN CHOICE (log entry 18): `v` still counts
as written, so a G, ROUND or FOLD issued directly before the next VINIT runs on these free values; R10 forbids the read, U12
would fault or refuse, and R187 names only registers never written since reset. -/
def releaseWorking (s : State) : State :=
  { s with v := deadWords 16 s.draws 0, draws := s.draws + 1 }

/-- The registers of an invocation hold any value once it is over (R153, U6, U7). `D` is not among them: EXTRACT has
just written it (R150, R151; log entry 8). -/
def releaseInvocation (s : State) : State :=
  { s with
    v := deadWords 16 s.draws 0
    h := deadWords 8 s.draws 16
    m := deadWords 16 s.draws 24
    t0 := Config.deadWord s.draws 40
    t1 := Config.deadWord s.draws 41
    f0 := Config.deadFlag s.draws
    nn := Config.deadByte s.draws 0
    kk := Config.deadByte s.draws 1
    key := deadBytes 32 s.draws 2
    salt := deadBytes 8 s.draws 34
    pers := deadBytes 8 s.draws 42
    B := deadBytes 64 s.draws 50
    draws := s.draws + 1 }

/-! ### The host port -/

/-- The core takes the waiting request: it waits no longer, and what the port showed for the word before is gone
(log entries 3, 13). -/
def accept (s : State) : State := { s with pending := false, response := none, digestOut := none }

/-- The end of a successful transaction: `status <- 0`, the response `(0, D[0..n))` (R161, R164). -/
def respond (n : Nat) (s : State) : State :=
  { s with status := 0, response := some ⟨0, some (s.D.toList.take n)⟩ }

/-- HASH loads the parameter registers and the queue from the request (R161). -/
def loadRequest (klen slen plen : Nat) (s : State) : State :=
  { s with
    key := zeroFill s.request.keyD klen
    salt := zeroFill s.request.saltD slen
    pers := zeroFill s.request.persD plen
    inq := s.request.msg
    written := { s.written with key := true, salt := true, pers := true } }

/-- The reset signal on a running core (R210): phase, pc, status and inq take their reset values, a waiting request and
any response are lost, nothing counts as written, and every other register is unspecified: free values (log entry 15).
`f1` is hardwired and the request's data are the host's inputs: both stay. -/
def resetCore (s : State) : State :=
  { releaseInvocation s with
    D := deadBytes 32 s.draws 114
    phase := .idle
    pc := 0
    status := 0
    inq := []
    pending := false
    resetPin := false
    response := none
    digestOut := none
    written := Written.none }

end Sys2Proof.Machine
end

