-- ==== Sys2Proof/Machine/Extractor.lean ====
section
/-! DEFINITION. The digest extractor: EXTRACT (spec 45_digest_extractor R150 to R156). -/

namespace Sys2Proof.Machine

/-- The writes of EXTRACT, once its check has passed (R150 to R153): the serialized state, the digest, phase IDLE; the
other registers of the invocation hold any value afterwards (R153). -/
def extracted (s : State) : State :=
  releaseInvocation
    { s with
      D := serialize s.h s.D
      digestOut := some ((serialize s.h s.D).toList.take s.nn.toNat)
      phase := .idle }

/-- EXTRACT on the state (R150). -/
def extractState (s : State) : Result :=
  if s.phase = .final then .done (extracted s) else .raised .protocolError s

/-- `EXTRACT` (R150). -/
def execExtract (s : State) : Host.Outcome State Fault Refusal := Result.conclude (extractState s)

end Sys2Proof.Machine
end

