-- ==== Sys2Proof/Machine/Tables.lean ====
section
/-! DEFINITION. The constant tables IV, SIGMA, IDX and the microprogram UROM (spec 30_encoding R63 to R67); constants, not state (10_state R23). -/

namespace Sys2Proof.Machine

/-- The initialization-vector constants (R63). -/
def iv : Vector Word 8 :=
  #v[0x6A09E667, 0xBB67AE85, 0x3C6EF372, 0xA54FF53A, 0x510E527F, 0x9B05688C, 0x1F83D9AB, 0x5BE0CD19]

/-- The message-word permutation table (R64): row `r`, column `c`. -/
def sigmaTable : Vector (Vector Index 16) 10 := #v[
  #v[0, 1, 2, 3, 4, 5, 6, 7, 8, 9, 10, 11, 12, 13, 14, 15],
  #v[14, 10, 4, 8, 9, 15, 13, 6, 1, 12, 0, 2, 11, 7, 5, 3],
  #v[11, 8, 12, 0, 5, 2, 15, 13, 10, 14, 3, 6, 7, 1, 9, 4],
  #v[7, 9, 3, 1, 13, 12, 11, 14, 2, 6, 5, 10, 4, 0, 15, 8],
  #v[9, 0, 5, 7, 2, 4, 10, 15, 14, 1, 11, 12, 6, 8, 3, 13],
  #v[2, 12, 6, 10, 0, 11, 8, 3, 4, 13, 7, 5, 15, 14, 1, 9],
  #v[12, 5, 1, 15, 14, 13, 4, 10, 0, 7, 6, 3, 9, 2, 8, 11],
  #v[13, 11, 7, 14, 12, 1, 3, 9, 5, 0, 15, 4, 8, 6, 2, 10],
  #v[6, 15, 14, 9, 11, 3, 0, 8, 12, 2, 13, 7, 1, 4, 10, 5],
  #v[10, 2, 8, 4, 7, 6, 1, 5, 15, 11, 9, 14, 3, 12, 13, 0]]

/-- `SIGMA[r][c]` (R64). -/
def sigma (r : Fin 10) (c : Fin 16) : Index := (sigmaTable[r])[c]

/-- The index tuples IDX (R65): four column steps, then four diagonal steps. -/
def idxTable : Vector (Index × Index × Index × Index) 8 := #v[
  (0, 4, 8, 12), (1, 5, 9, 13), (2, 6, 10, 14), (3, 7, 11, 15),
  (0, 5, 10, 15), (1, 6, 11, 12), (2, 7, 8, 13), (3, 4, 9, 14)]

/-- `SIGMA[r][2i]`, the selector of the first message word of step `i` of round `r` (R66). -/
def selX (r : Fin 10) (i : Fin 8) : Index := sigma r ⟨2 * i.val, by omega⟩

/-- `SIGMA[r][2i+1]`, the selector of the second message word of step `i` of round `r` (R66). -/
def selY (r : Fin 10) (i : Fin 8) : Index := sigma r ⟨2 * i.val + 1, by omega⟩

/-- The three control words that stand in the microprogram (R67). -/
inductive MicroOp where
  | vinit
  | g (a b c d sx sy : Index)
  | fold
deriving DecidableEq, Repr

/-- Step `i` of round `r` as a control word (R66, R67, R92). -/
def gStep (r : Fin 10) (i : Fin 8) : MicroOp :=
  .g (idxTable[i]).1 (idxTable[i]).2.1 (idxTable[i]).2.2.1 (idxTable[i]).2.2.2 (selX r i) (selY r i)

/-- `UROM[pc]` (R67): word 0 is VINIT, word 1 + 8r + i step `i` of round `r`, word 81 FOLD; there are no words above
81 (R21), and no run reads one. -/
def urom (pc : Nat) : MicroOp :=
  if pc = 0 then .vinit
  else if h : pc ≤ 80 then gStep ⟨(pc - 1) / 8, by omega⟩ ⟨(pc - 1) % 8, by omega⟩
  else .fold

end Sys2Proof.Machine
end

