-- ==== Sys2Proof/Machine/Initializer.lean ====
section
/-! DEFINITION. The state and parameter initializer: INIT (spec 43_initializer R110 to R117; parameter block 30_encoding R60, R61). -/

namespace Sys2Proof.Machine

/-- Parameter word 0 (R61): digest length, key length, fan-out 1, depth 1, from the least significant byte up. -/
def paramWord0 (n k : Byte) : Word := 1#8 ++ 1#8 ++ k ++ n

/-- The parameter block (R60, R33). -/
def paramBlock (n k : Byte) (salt pers : Vector Byte 8) : Vector Word 8 :=
  #v[paramWord0 n k, 0, 0, 0,
    le32 salt[0] salt[1] salt[2] salt[3], le32 salt[4] salt[5] salt[6] salt[7],
    le32 pers[0] pers[1] pers[2] pers[3], le32 pers[4] pers[5] pers[6] pers[7]]

/-- The initial state words, IV XOR parameter block (R113). -/
def initialWords (n k : Byte) (salt pers : Vector Byte 8) : Vector Word 8 :=
  Vector.ofFn fun i => iv[i] ^^^ (paramBlock n k salt pers)[i]

/-- The writes of INIT, once its checks have passed (R110, R113 to R117). -/
def initialized (n k : Byte) (s : State) : State :=
  { setLastBlock false (setCounter 0 s) with
    nn := n
    kk := k
    h := initialWords n k s.salt s.pers
    inq := if 0 < k.toNat then keyBlock s.key k.toNat ++ s.inq else s.inq
    phase := .continuing
    written := { s.written with h := true, t := true, f0 := true } }

/-- The registers INIT reads have been written: `salt` and `pers`, and `key` when `k > 0` (R27, R117, R181; log
entry 6). -/
def initReadable (k : Byte) (s : State) : Bool :=
  s.written.salt && s.written.pers && (k.toNat == 0 || s.written.key)

/-- INIT on the state (R110): the phase, then the lengths (R183), then the registers it reads. -/
def initState (n k : Byte) (s : State) : Result :=
  if s.phase = .idle then
    match initLengthError n k with
    | some c => .raised c s
    | none => if initReadable k s then .done (initialized n k s) else .raised .protocolError s
  else .raised .protocolError s

/-- `INIT n,k` (R110). -/
def execInit (n k : Byte) (s : State) : Host.Outcome State Fault Refusal := Result.conclude (initState n k s)

end Sys2Proof.Machine
end

