-- ==== Sys2Proof/Machine/Mixing.lean ====
section
/-! DEFINITION. The mixing primitive G (spec 41_g_function R82 to R86). -/

namespace Sys2Proof.Machine

/-- G as a pure function of its six input words (R82): the four slots after the four operations. -/
def mixWords (va vb vc vd x y : Word) : Word × Word × Word × Word :=
  let a1 := va + vb + x
  let d1 := rotr32 (vd ^^^ a1) 16
  let c1 := vc + d1
  let b1 := rotr32 (vb ^^^ c1) 12
  let a2 := a1 + b1 + y
  let d2 := rotr32 (d1 ^^^ a2) 8
  let c2 := c1 + d2
  let b2 := rotr32 (b1 ^^^ c2) 7
  (a2, b2, c2, d2)

/-- The working vector after G on slots `a b c d` with message words `x y` (R82, R83). -/
def mixVector (v : Vector Word 16) (a b c d : Index) (x y : Word) : Vector Word 16 :=
  let r := mixWords (getReg v a) (getReg v b) (getReg v c) (getReg v d) x y
  setReg (setReg (setReg (setReg v a r.1) b r.2.1) c r.2.2.1) d r.2.2.2

/-- G on the state: `x = m[sx]`, `y = m[sy]` (R82, R86). -/
def mix (a b c d sx sy : Index) (s : State) : State :=
  { s with v := mixVector s.v a b c d (getReg s.m sx) (getReg s.m sy) }

/-- The registers a directly issued G or ROUND reads have been written (R187). -/
def mixReadable (s : State) : Bool := s.written.v && s.written.m

/-- `G a,b,c,d,sx,sy` (R82): equal indices are an illegal word (R84), an unwritten source a ProtocolError (R187). -/
def execG (a b c d sx sy : Index) (s : State) : Host.Outcome State Fault Refusal :=
  Result.conclude <|
    if distinctIndices a b c d then
      if mixReadable s then .done (mix a b c d sx sy s) else .raised .protocolError s
    else .raised .illegalControlWord s

end Sys2Proof.Machine
end

