-- ==== Sys2Proof/Machine/Compression.lean ====
section
/-! DEFINITION. The compression function: VINIT, ROUND, FOLD and F (spec 42_compression R90 to R96). -/

namespace Sys2Proof.Machine

/-- The working vector VINIT builds (R91): state, IV, counter low into word 12, high into word 13, word 14 inverted for
the last block, word 15 untouched. -/
def workingVector (h : Vector Word 8) (t0 t1 : Word) (f0 : Bool) : Vector Word 16 :=
  #v[h[0], h[1], h[2], h[3], h[4], h[5], h[6], h[7],
    iv[0], iv[1], iv[2], iv[3], iv[4] ^^^ t0, iv[5] ^^^ t1, (if f0 then ~~~iv[6] else iv[6]), iv[7]]

/-- VINIT on the state (R91). -/
def vinit (s : State) : State :=
  { s with v := workingVector s.h s.t0 s.t1 s.f0, written := { s.written with v := true } }

/-- The state words FOLD produces (R93). -/
def foldWords (h : Vector Word 8) (v : Vector Word 16) : Vector Word 8 :=
  Vector.ofFn fun i => h[i] ^^^ v[i.val] ^^^ v[i.val + 8]

/-- FOLD on the state (R93): `h` is replaced and `v` is dead (R10). -/
def fold (s : State) : State := releaseWorking { s with h := foldWords s.h s.v }

/-- A microprogram word on the state, the sequencer's position apart (R96). -/
def runMicro (op : MicroOp) (s : State) : State :=
  match op with
  | .vinit => vinit s
  | .g a b c d sx sy => mix a b c d sx sy s
  | .fold => fold s

/-- The sequencer's position after the word at `pc` (R21, R96): one further, and 0 again after word 81. -/
def nextPosition (pc : BitVec 7) : BitVec 7 := if pc = 81 then 0 else pc + 1

/-- One step of the sequencer (R96): execute `UROM[pc]`, then go to the next position. -/
def microStep (s : State) : State :=
  { runMicro (urom s.pc.toNat) s with pc := nextPosition s.pc }

/-- `k` sequencer steps. -/
def microRun : Nat → State → State
  | 0, s => s
  | k + 1, s => microRun k (microStep s)

/-- One whole compression (R94, R96): `pc <- 0`, then the 82 words of UROM, after which `pc` is 0. Of the sequencer's run only what F
writes is kept: `h`, `v` with its written mark, the draws FOLD made; Laws/Compression.lean proves that the run changes
nothing else (`compress_eq_run`). -/
def compress (s : State) : State :=
  let run := microRun 82 { s with pc := 0 }
  { s with v := run.v, h := run.h, pc := 0, written := run.written, draws := run.draws }

/-- The eight G of round `r`, in order (R92). -/
def roundSteps (r : Fin 10) (s : State) : State :=
  runMicro (gStep r 7) <| runMicro (gStep r 6) <| runMicro (gStep r 5) <| runMicro (gStep r 4) <|
  runMicro (gStep r 3) <| runMicro (gStep r 2) <| runMicro (gStep r 1) <| runMicro (gStep r 0) s

/-- `VINIT` (R91): reads `h`, `t0`, `t1`, `f0`, which must have been written (R187). -/
def execVinit (s : State) : Host.Outcome State Fault Refusal :=
  Result.conclude <|
    if s.written.h && s.written.t && s.written.f0 then .done (vinit s) else .raised .protocolError s

/-- `FOLD` (R93): reads `h` and `v`, which must have been written (R187). -/
def execFold (s : State) : Host.Outcome State Fault Refusal :=
  Result.conclude <| if s.written.h && s.written.v then .done (fold s) else .raised .protocolError s

/-- `ROUND r` (R92): `r` above 9 is an illegal word (R58), an unwritten source a ProtocolError (R187). -/
def execRound (r : Index) (s : State) : Host.Outcome State Fault Refusal :=
  Result.conclude <|
    if hr : r.toNat < 10 then
      if mixReadable s then .done (roundSteps ⟨r.toNat, hr⟩ s) else .raised .protocolError s
    else .raised .illegalControlWord s

/-- `F` (R94): reads `h`, `m`, `t0`, `t1`, `f0`, which must have been written (R187). -/
def execF (s : State) : Host.Outcome State Fault Refusal :=
  Result.conclude <|
    if s.written.h && s.written.m && s.written.t && s.written.f0 then .done (compress s)
    else .raised .protocolError s

end Sys2Proof.Machine
end

