-- ==== Sys2Proof/Machine/Pipeline.lean ====
section
/-! DEFINITION. The message-block pipeline: ABSORB, FINAL and their sequencing (spec 44_block_pipeline R130 to R138). -/

namespace Sys2Proof.Machine

/-- The writes of ABSORB, once its checks have passed (R131): 64 bytes, counter plus 64, F. -/
def absorbed (s : State) : State := compress (advanceCounter 64 (takeBlock 64 s))

/-- ABSORB on the state (R131, R133). -/
def absorbState (s : State) : Result :=
  if s.phase = .continuing ∧ 64 < s.inq.length then
    if counterPasses 64 s then .refused .counterOverflow else .done (absorbed s)
  else .raised .protocolError s

/-- The writes of FINAL, once its checks have passed (R132): `len` bytes, counter plus `len`, phase FINAL, `f0`, F. -/
def finalized (len : Nat) (s : State) : State :=
  compress (setLastBlock true { advanceCounter len (takeBlock len s) with phase := .final })

/-- FINAL on the state (R132, R133). -/
def finalState (len : Nat) (s : State) : Result :=
  if s.phase = .continuing ∧ len = s.inq.length then
    if counterPasses len s then .refused .counterOverflow else .done (finalized len s)
  else .raised .protocolError s

/-- `while |inq| > 64: issue ABSORB` (R134), with at most `fuel` passes; a pass removes 64 bytes, so `|inq|` passes
are more than enough (R219). -/
def absorbWhile : Nat → State → Result
  | 0, s => .done s
  | fuel + 1, s => if 64 < s.inq.length then (absorbState s).andThen (absorbWhile fuel) else .done s

/-- The sequencing rule (R134): the ABSORB loop, then FINAL with the number of bytes that remain. -/
def pipeline (s : State) : Result :=
  (absorbWhile s.inq.length s).andThen fun s' => finalState s'.inq.length s'

/-- `ABSORB` (R131). -/
def execAbsorb (s : State) : Host.Outcome State Fault Refusal := Result.conclude (absorbState s)

/-- `FINAL len` (R132): `len` above 64 is an illegal word (R58). -/
def execFinal (len : BitVec 7) (s : State) : Host.Outcome State Fault Refusal :=
  Result.conclude <| if lengthInRange len then finalState len.toNat s else .raised .illegalControlWord s

end Sys2Proof.Machine
end

