-- ==== Sys2Proof/Machine/HostPort.lean ====
section
/-! DEFINITION. The host entry points: HASH and HASH256 (spec 46_host_interface R160 to R168). -/

namespace Sys2Proof.Machine

/-- The input length the request asks for: the key block, when there is one, and the message (R164, D25). -/
def inputLength (klen : Byte) (s : State) : Nat :=
  (if 0 < klen.toNat then 64 else 0) + s.request.msg.length

/-- The control words HASH issues once its registers are loaded, and the response (R161). -/
def invocation (n klen : Byte) (s : State) : Result :=
  (((initState n klen s).andThen pipeline).andThen extractState).andThen fun s' => .done (respond n.toNat s')

/-- HASH on the state (R160, R161): phase, the four lengths, the input bound (log entry 11), then the expansion. -/
def hashState (n klen : Byte) (slen plen : Index) (s : State) : Result :=
  if s.phase = .idle then
    match hashLengthError n klen slen plen with
    | some c => .raised c s
    | none =>
      if Config.maxInput < inputLength klen s then .refused .inputTooLong
      else invocation n klen (loadRequest klen.toNat slen.toNat plen.toNat s)
  else .raised .protocolError s

/-- `HASH n,klen,slen,plen` (R160). -/
def execHash (n klen : Byte) (slen plen : Index) (s : State) : Host.Outcome State Fault Refusal :=
  Result.conclude (hashState n klen slen plen s)

/-- `HASH256` (R162): exactly `HASH 32,0,0,0`. -/
def execHash256 (s : State) : Host.Outcome State Fault Refusal := Result.conclude (hashState 32 0 0 0 s)

end Sys2Proof.Machine
end

