-- ==== Sys2Proof/Machine/Dispatch.lean ====
section
/-! DEFINITION. One arm per control word of Instr, each a direct call of its meaning (spec 30_encoding R57). -/

namespace Sys2Proof.Machine

def exec (i : Instr) (s : State) : Host.Outcome State Fault Refusal :=
  match i with
  | .g a b c d sx sy => Sys2Proof.Machine.execG a b c d sx sy s
  | .vinit => Sys2Proof.Machine.execVinit s
  | .fold => Sys2Proof.Machine.execFold s
  | .round r => Sys2Proof.Machine.execRound r s
  | .f => Sys2Proof.Machine.execF s
  | .init n k => Sys2Proof.Machine.execInit n k s
  | .absorb => Sys2Proof.Machine.execAbsorb s
  | .final len => Sys2Proof.Machine.execFinal len s
  | .extract => Sys2Proof.Machine.execExtract s
  | .hash n klen slen plen => Sys2Proof.Machine.execHash n klen slen plen s
  | .hash256 => Sys2Proof.Machine.execHash256 s

end Sys2Proof.Machine
end

