-- ==== Sys2Proof/Machine/Serve.lean ====
section
/-! DEFINITION. Serving the host port: the waiting control word is taken, decoded and executed (spec 46 R167, 60 R186, 70 R210). -/

namespace Sys2Proof.Machine

/-- The waiting request's control word is decoded; an illegal word raises IllegalControlWord (R186), a legal one is
executed to completion (R39). -/
def serveRequest (s : State) : Host.Outcome State Fault Refusal :=
  match decode s.request.cw with
  | .error _ => .next (takeException .illegalControlWord (accept s))
  | .ok i => exec i (accept s)

/-- One step: the reset signal first (R210), then a waiting request; with neither the core does nothing (R210). -/
def advance (s : State) : Host.Outcome State Fault Refusal :=
  if s.resetPin then .next (resetCore s)
  else if s.pending then serveRequest s
  else .next s

end Sys2Proof.Machine
end

