-- ==== Sys2Proof/Machine/Step.lean ====
section
/-! DEFINITION. The step of the machine and the host's way to present one control word. -/

namespace Sys2Proof.Machine

/-- One step of the core: one control word, served to completion (log entry 1). -/
def step (s : State) : Host.Outcome State Fault Refusal := advance s

/-- The control word whose low `nbits` bits are `w` stands at the host port, waiting, with the reset signal not
asserted, so that the next step takes exactly it. The request's data fields stay as they are. -/
def State.withFetchWord (s : State) (nbits w : Nat) : State :=
  { s with
    request := { s.request with cw := BitVec.ofNat 32 (w % 2 ^ nbits) }
    pending := true
    resetPin := false }

end Sys2Proof.Machine
end

