-- ==== Sys2Proof/Safety.lean ====
section
/-! DEFINITION. The terms the statements use: the spec's pure functions (G, F, INIT, PIPE, EXTRACT, HASH, written from 41 R82, 42 R94, 43 R110, 44 R140, 45 R150, 46 R161), legal words (30 R58), sequences of control words, and the invariant of the core (10 R20, R21, R24). -/

namespace Sys2Proof.Safety

open Sys2Proof.Machine

/-! ### The spec's pure functions -/

/-- The eight assignments of R82, in order, each reading what the lines before it wrote. -/
def mixLines (v : Vector Word 16) (a b c d : Index) (x y : Word) : Vector Word 16 :=
  let v := setReg v a (getReg v a + getReg v b + x)
  let v := setReg v d (rotr32 (getReg v d ^^^ getReg v a) 16)
  let v := setReg v c (getReg v c + getReg v d)
  let v := setReg v b (rotr32 (getReg v b ^^^ getReg v c) 12)
  let v := setReg v a (getReg v a + getReg v b + y)
  let v := setReg v d (rotr32 (getReg v d ^^^ getReg v a) 8)
  let v := setReg v c (getReg v c + getReg v d)
  setReg v b (rotr32 (getReg v b ^^^ getReg v c) 7)

/-- Step `i` of round `r` as a control word (R65, R66, R92). -/
def roundWord (r : Fin 10) (i : Fin 8) : Instr :=
  .g (idxTable[i]).1 (idxTable[i]).2.1 (idxTable[i]).2.2.1 (idxTable[i]).2.2.2 (selX r i) (selY r i)

/-- One round on a working vector, for the message words `m` (R92). -/
def roundFn (m : Vector Word 16) (v : Vector Word 16) (r : Fin 10) : Vector Word 16 :=
  (List.finRange 8).foldl (fun v i =>
    mixLines v (idxTable[i]).1 (idxTable[i]).2.1 (idxTable[i]).2.2.1 (idxTable[i]).2.2.2
      (getReg m (selX r i)) (getReg m (selY r i))) v

/-- VINIT's pseudocode (R91): the state, then the IV, then the counter words and the flag. -/
def workingFn (h : Vector Word 8) (t0 t1 : Word) (f0 : Bool) : Vector Word 16 :=
  let v : Vector Word 16 := Vector.ofFn fun i => if hi : i.val < 8 then h[i.val] else iv[i.val - 8]
  let v := v.set 12 (v[12] ^^^ t0)
  let v := v.set 13 (v[13] ^^^ t1)
  if f0 then v.set 14 (~~~v[14]) else v

/-- `F_fn(h, m, t0, t1, f0)` (R90, R94): ten rounds between VINIT and FOLD. -/
def compressFn (h : Vector Word 8) (m : Vector Word 16) (t0 t1 : Word) (f0 : Bool) : Vector Word 8 :=
  let v := (List.finRange 10).foldl (roundFn m) (workingFn h t0 t1 f0)
  Vector.ofFn fun i => h[i] ^^^ v[i.val] ^^^ v[i.val + 8]

/-- The word of bytes `j` to `j + 3` of a byte sequence, little-endian, bytes past its end 0 (R7, R32, R33, R36). -/
def wordAt (bytes : List Byte) (j : Nat) : Word :=
  le32 (bytes.getD j 0) (bytes.getD (j + 1) 0) (bytes.getD (j + 2) 0) (bytes.getD (j + 3) 0)

/-- A block of at most 64 bytes as sixteen message words, zero-padded on the right (R32, R36). -/
def blockWords (bytes : List Byte) : Vector Word 16 := Vector.ofFn fun i => wordAt bytes (4 * i.val)

/-- Parameter word `i` (R60, R61, R33). -/
def paramFn (n k : Byte) (salt pers : List Byte) (i : Fin 8) : Word :=
  match i.val with
  | 0 => 0x01010000#32 ||| (k.setWidth 32 <<< 8) ||| n.setWidth 32
  | 4 => wordAt salt 0
  | 5 => wordAt salt 4
  | 6 => wordAt pers 0
  | 7 => wordAt pers 4
  | _ => 0

/-- `INIT_fn(n, k, salt8, pers8)` (R110, R113). -/
def initFn (n k : Byte) (salt pers : List Byte) : Vector Word 8 :=
  Vector.ofFn fun i => iv[i] ^^^ paramFn n k salt pers i

/-- The key block in front of the message, when there is a key (R115, R161). -/
def keyPrefix (key : List Byte) : List Byte :=
  if key.length = 0 then [] else key ++ List.replicate (64 - key.length) 0

/-- The low and the high word of a byte count (R13, R62). -/
def countLow (t : Nat) : Word := BitVec.ofNat 32 t
def countHigh (t : Nat) : Word := BitVec.ofNat 32 (t / 2 ^ 32)

/-- `PIPE_fn` (R130, R134, R140), from byte count `t`: every block but the last non-final, the last one final with the
true count. At most `fuel` blocks come before the last. -/
def pipeFn : Nat → Vector Word 8 → Nat → List Byte → Vector Word 8
  | fuel, h, t, bytes =>
    match fuel with
    | 0 => compressFn h (blockWords bytes) (countLow (t + bytes.length)) (countHigh (t + bytes.length)) true
    | fuel + 1 =>
      if 64 < bytes.length then
        pipeFn fuel (compressFn h (blockWords (bytes.take 64)) (countLow (t + 64)) (countHigh (t + 64)) false) (t + 64)
          (bytes.drop 64)
      else compressFn h (blockWords bytes) (countLow (t + bytes.length)) (countHigh (t + bytes.length)) true

/-- `EXTRACT_fn(h, n)` (R150): byte `j` is byte `j mod 4` of word `j div 4`. -/
def extractFn (h : Vector Word 8) (n : Nat) : List Byte :=
  ((List.finRange 32).map fun j => byteOf (h[j.val / 4]) (j.val % 4)).take n

/-- The digest of `HASH_fn(msg, key, n, salt, pers)` for legal lengths (R161). -/
def digestFn (msg key : List Byte) (n : Byte) (salt pers : List Byte) : List Byte :=
  let pad8 (s : List Byte) : List Byte := s ++ List.replicate (8 - s.length) 0
  let input := keyPrefix key ++ msg
  extractFn (pipeFn input.length (initFn n (BitVec.ofNat 8 key.length) (pad8 salt) (pad8 pers)) 0 input) n.toNat

/-- The first `len` bytes of a request field. -/
def fieldBytes {n : Nat} (bytes : Vector Byte n) (len : Nat) : List Byte := bytes.toList.take len

/-! ### Legal words -/

/-- Bits `hi:lo` of a word as a number (R7). -/
def bits (w : Word) (hi lo : Nat) : Nat := w.toNat / 2 ^ lo % 2 ^ (hi - lo + 1)

/-- R58 in the words of the formats (R51 to R56): the opcode is defined, every bit a format shows as 0 is 0, and the
operand fields are in range. -/
def LegalWord (w : Word) : Prop :=
  (bits w 31 28 = 0x1 ∧ bits w 27 24 = 0 ∧
    [bits w 23 20, bits w 19 16, bits w 15 12, bits w 11 8].Pairwise (· ≠ ·)) ∨
  ((bits w 31 28 = 0x2 ∨ bits w 31 28 = 0x3 ∨ bits w 31 28 = 0x5 ∨ bits w 31 28 = 0x7 ∨ bits w 31 28 = 0x9 ∨
    bits w 31 28 = 0xB) ∧ bits w 27 0 = 0) ∨
  (bits w 31 28 = 0x4 ∧ bits w 27 4 = 0 ∧ bits w 3 0 ≤ 9) ∨
  (bits w 31 28 = 0x6 ∧ bits w 27 16 = 0) ∨
  (bits w 31 28 = 0x8 ∧ bits w 27 7 = 0 ∧ bits w 6 0 ≤ 64) ∨
  (bits w 31 28 = 0xA ∧ bits w 27 24 = 0)

/-! ### Sequences and exceptions -/

/-- Control words executed one after another, each from the state the one before left; a refusal ends the sequence. -/
def execAll : List Instr → State → Host.Outcome State Fault Refusal
  | [], s => .next s
  | i :: rest, s =>
    match exec i s with
    | .next t => execAll rest t
    | .fault f => .fault f
    | .refused r => .refused r

/-- The state after an exception with code `c`: `status` and the response, nothing else (R184). -/
def afterException (c : Byte) (s : State) : State := { s with status := c, response := some ⟨c, none⟩ }

/-! ### The invariant -/

/-- What holds of the core at every control-word boundary (R14, R20, R21, R22, R24, R187). -/
structure Inv (s : State) : Prop where
  /-- Outside F the sequencer's position is 0 (R21). -/
  pc_zero : s.pc = 0
  /-- The last-node flag is hardwired to 0 (R14). -/
  f1_zero : s.f1 = false
  /-- `status` holds a code of R181. -/
  status_code : s.status.toNat ≤ 6
  /-- `phase = CONTINUING` implies `f0 = 0` (R20). -/
  continuing_f0 : s.phase = .continuing → s.f0 = false
  /-- `phase = FINAL` implies `f0 = 1` (R20), and the input is consumed (R19). -/
  final_f0 : s.phase = .final → s.f0 = true ∧ s.inq = []
  /-- Within an invocation the lengths are legal (R24). -/
  lengths : s.phase ≠ .idle → 1 ≤ s.nn.toNat ∧ s.nn.toNat ≤ 32 ∧ s.kk.toNat ≤ 32
  /-- Within an invocation everything F reads but `m` has been written (R25). -/
  written_h : s.phase ≠ .idle → s.written.h = true ∧ s.written.t = true ∧ s.written.f0 = true
  /-- After the final block `m` and `v` have been written too (R25). -/
  written_m : s.phase = .final → s.written.m = true ∧ s.written.v = true
  /-- The response carries `status`, and a digest exactly when it is 0 (R164, R155). -/
  response_status : ∀ r, s.response = some r → r.status = s.status ∧ (r.digest.isSome ↔ r.status = 0)

end Sys2Proof.Safety
end

