-- ==== Sys2Proof/Certificates/Slice0/Obligations.lean ====
section
/-! DEFINITION. The statements for the provers, from the numbered rules of the spec. -/

open Sys2Proof Sys2Proof.Machine Sys2Proof.Safety

/-! ### Reset, the port, and decoding -/

/-- R210: the reset signal puts the core in its rest state, loses a waiting request and answers nothing. R39, R41, R210:
with no request waiting and no reset signal a step changes nothing, in every state, within an invocation too. The signal and
the request as inputs that a step looks at are the model's reading of the port (log entries 3, 15), the written marks its
reading of R187 (log entry 5). -/
def Obligations.ResetSignalEntersRestState : Prop :=
  (∀ s : State, s.resetPin = true →
    ∃ t, step s = .next t ∧ t.phase = .idle ∧ t.pc = 0 ∧ t.status = 0 ∧ t.inq = [] ∧ t.f1 = s.f1 ∧
      t.pending = false ∧ t.response = none ∧ t.digestOut = none ∧ t.written = Written.none ∧ step t = .next t) ∧
  ∀ s : State, s.resetPin = false → s.pending = false → step s = .next s

/-- R27: what reset leaves, and that a directly issued word that would read an unspecified register is refused with
ProtocolError. The written
marks are the model's (log entry 5). -/
def Obligations.PowerOnResetState : Prop :=
  State.reset.phase = .idle ∧ State.reset.pc = 0 ∧ State.reset.status = 0 ∧ State.reset.inq = [] ∧
  State.reset.f1 = false ∧
  exec .vinit State.reset = .next (afterException 6 State.reset) ∧
  exec .fold State.reset = .next (afterException 6 State.reset) ∧
  exec .f State.reset = .next (afterException 6 State.reset) ∧
  (∀ r : Index, r.toNat ≤ 9 → exec (.round r) State.reset = .next (afterException 6 State.reset)) ∧
  (∀ a b c d sx sy : Index, [a, b, c, d].Pairwise (· ≠ ·) →
    exec (.g a b c d sx sy) State.reset = .next (afterException 6 State.reset))

/-- R39, R167: a step with a waiting legal word is that word's `exec`, on the state that has taken the request.
That the port takes and executes the nine unit-level words too is the model's choice (log entry 2): R190 says the host port
accepts only HASH and HASH256 and lets a model expose the others. What taking a request clears is its choice as well (log
entries 3, 13). -/
def Obligations.StepRunsWaitingWord : Prop :=
  ∀ (s : State) (i : Instr), s.resetPin = false → s.pending = true → decode s.request.cw = .ok i →
    step s = exec i { s with pending := false, response := none, digestOut := none }

/-- R186: a waiting word the decoder rejects raises IllegalControlWord, code 5, and changes no register but `status`. That
the port clears the request and what it showed before is the model's choice (log entries 3, 13). -/
def Obligations.IllegalWordRaises : Prop :=
  ∀ s : State, s.resetPin = false → s.pending = true → (∀ i, decode s.request.cw ≠ .ok i) →
    step s = .next (afterException 5 { s with pending := false, response := none, digestOut := none })

/-- R58: exactly the legal words decode; every other word raises IllegalControlWord with no change of state but
`status` (R186). In the second clause what taking the request does to the port (`pending`, `response`, `digestOut`) is the
model's choice: log entries 3 and 13. -/
def Obligations.ExactlyLegalWordsDecode : Prop :=
  (∀ w : Word, (∃ i, decode w = .ok i) ↔ LegalWord w) ∧
  (∀ s : State, s.resetPin = false → s.pending = true → ¬ LegalWord s.request.cw →
    step s = .next (afterException 5 { s with pending := false, response := none, digestOut := none })) ∧
  ¬ LegalWord 0 ∧ ¬ LegalWord 0xFFFFFFFF

/-- R57, R58, R59: decoding the encoding of a well-formed instruction gives it back, every operand at every value. -/
def Obligations.DecodeOfEncode : Prop :=
  ∀ i : Instr, wellFormed i = true → decode (encode i) = .ok i

/-- R57, R58: what a word decodes to is well formed and encodes to that very word: no bit is dropped. -/
def Obligations.EncodeOfDecode : Prop :=
  ∀ (w : Word) (i : Instr), decode w = .ok i → wellFormed i = true ∧ encode i = w

/-- R57: no word is selected by two rows of the opcode map. -/
def Obligations.OpcodeRowsDisjoint : Prop :=
  opcodeRows.Pairwise fun r₁ r₂ => ∀ w, ¬ (r₁.selects w = true ∧ r₂.selects w = true)

/-- R51 to R56: the bits of each encoded control word. -/
def Obligations.EncodedFieldsStandInTheirBits : Prop :=
  (∀ a b c d sx sy : Index, ∀ w, w = encode (.g a b c d sx sy) →
    bits w 31 28 = 0x1 ∧ bits w 27 24 = 0 ∧ bits w 23 20 = a.toNat ∧ bits w 19 16 = b.toNat ∧
    bits w 15 12 = c.toNat ∧ bits w 11 8 = d.toNat ∧ bits w 7 4 = sx.toNat ∧ bits w 3 0 = sy.toNat) ∧
  (∀ i op, (i, op) ∈ [(Instr.vinit, 0x2), (.fold, 0x3), (.f, 0x5), (.absorb, 0x7), (.extract, 0x9), (.hash256, 0xB)] →
    bits (encode i) 31 28 = op ∧ bits (encode i) 27 0 = 0) ∧
  (∀ r : Index, ∀ w, w = encode (.round r) → bits w 31 28 = 0x4 ∧ bits w 27 4 = 0 ∧ bits w 3 0 = r.toNat) ∧
  (∀ n k : Byte, ∀ w, w = encode (.init n k) →
    bits w 31 28 = 0x6 ∧ bits w 27 16 = 0 ∧ bits w 15 8 = k.toNat ∧ bits w 7 0 = n.toNat) ∧
  (∀ len : BitVec 7, ∀ w, w = encode (.final len) →
    bits w 31 28 = 0x8 ∧ bits w 27 7 = 0 ∧ bits w 6 0 = len.toNat) ∧
  (∀ (n klen : Byte) (slen plen : Index), ∀ w, w = encode (.hash n klen slen plen) →
    bits w 31 28 = 0xA ∧ bits w 27 24 = 0 ∧ bits w 23 20 = plen.toNat ∧ bits w 19 16 = slen.toNat ∧
    bits w 15 8 = klen.toNat ∧ bits w 7 0 = n.toNat)

/-- Words the spec writes out (R67, 95 section 3) decode to the instructions they stand for. -/
def Obligations.SpecWordsDecode : Prop :=
  decode 0x1016BC39 = .ok (.g 1 6 11 12 3 9) ∧ decode 0x20000000 = .ok .vinit ∧ decode 0x30000000 = .ok .fold ∧
  decode 0x40000001 = .ok (.round 1) ∧ decode 0x50000000 = .ok .f ∧ decode 0x60001014 = .ok (.init 20 16) ∧
  decode 0x70000000 = .ok .absorb ∧ decode 0x80000040 = .ok (.final 64) ∧ decode 0x90000000 = .ok .extract ∧
  decode 0xA0230020 = .ok (.hash 32 0 3 2) ∧ decode 0xB0000000 = .ok .hash256

/-! ### G -/

/-- R82: G runs the eight assignments on the slots it names, with `x = m[sx]` and `y = m[sy]`, and completes whenever
its indices differ and its sources have been written. That it completes on a dead `v` too (after FOLD, F, ABSORB, FINAL or
EXTRACT, before the next VINIT) is the model's choice (log entry 18). -/
def Obligations.GRunsItsEightLines : Prop :=
  ∀ (a b c d sx sy : Index) (s : State), [a, b, c, d].Pairwise (· ≠ ·) → s.written.v = true → s.written.m = true →
    exec (.g a b c d sx sy) s = .next { s with v := mixLines s.v a b c d (getReg s.m sx) (getReg s.m sy) }

/-- R83: G changes exactly the four registers it names, and its result depends only on the six words it reads. That it
completes on a dead `v` too is the model's choice (log entry 18). -/
def Obligations.GTouchesFourSlots : Prop :=
  ∀ (a b c d sx sy : Index) (s : State), [a, b, c, d].Pairwise (· ≠ ·) → s.written.v = true → s.written.m = true →
    ∃ t, exec (.g a b c d sx sy) s = .next t ∧ t = { s with v := t.v } ∧
      (∀ i, i ∉ [a, b, c, d] → getReg t.v i = getReg s.v i) ∧
      ∀ s' : State, s'.written.v = true → s'.written.m = true →
        (∀ i ∈ [a, b, c, d], getReg s'.v i = getReg s.v i) → getReg s'.m sx = getReg s.m sx →
        getReg s'.m sy = getReg s.m sy →
        ∃ t', exec (.g a b c d sx sy) s' = .next t' ∧ ∀ i ∈ [a, b, c, d], getReg t'.v i = getReg t.v i

/-- R84: a G with two equal indices has no meaning: the word that would encode it does not decode, and its exec is
IllegalControlWord. The last clause is about a term no word decodes to: the model's choice (log entry 10). -/
def Obligations.GWithEqualIndicesIsIllegal : Prop :=
  ∀ (a b c d sx sy : Index), ¬ [a, b, c, d].Pairwise (· ≠ ·) →
    (∀ i, decode (encode (.g a b c d sx sy)) ≠ .ok i) ∧ (∀ w, decode w ≠ .ok (.g a b c d sx sy)) ∧
    ∀ s, exec (.g a b c d sx sy) s = .next (afterException 5 s)

/-- R82 corner cases ("The function is a bijection on (va, vb, vc, vd) for fixed x, y"): distinct inputs never
collide. -/
def Obligations.GNeverCollides : Prop :=
  ∀ (a b c d sx sy : Index) (s s' t t' : State), [a, b, c, d].Pairwise (· ≠ ·) → s.written = s'.written →
    s.written.v = true → s.written.m = true → s.m = s'.m →
    exec (.g a b c d sx sy) s = .next t → exec (.g a b c d sx sy) s' = .next t' → t.v = t'.v → s.v = s'.v

/-- R213: G words on disjoint register sets may run in either order, so the four column steps of a round may, and the
four diagonal steps. That they complete on a dead `v` too is the model's choice (log entry 18). -/
def Obligations.DisjointGCommute : Prop :=
  ∀ (a b c d sx sy a' b' c' d' sx' sy' : Index) (s : State),
    [a, b, c, d, a', b', c', d'].Pairwise (· ≠ ·) → s.written.v = true → s.written.m = true →
    ∃ t, execAll [.g a b c d sx sy, .g a' b' c' d' sx' sy'] s = .next t ∧
      execAll [.g a' b' c' d' sx' sy', .g a b c d sx sy] s = .next t

/-- R81: `rotr32(w, s) = ((w >> s) | (w << (32 - s))) mod 2^32`, bit `i` of the result is bit `(i + s) mod 32` of `w`,
and the rule's check values. -/
def Obligations.RotationMovesBits : Prop :=
  (∀ (w : Word) (s : Nat), 0 < s → s < 32 →
    (rotr32 w s).toNat = (w.toNat / 2 ^ s ||| w.toNat * 2 ^ (32 - s)) % 2 ^ 32 ∧
    ∀ i, i < 32 → (rotr32 w s).getLsbD i = w.getLsbD ((i + s) % 32)) ∧
  rotr32 1 16 = 0x00010000 ∧ rotr32 1 12 = 0x00100000 ∧ rotr32 1 8 = 0x01000000 ∧ rotr32 1 7 = 0x02000000 ∧
  rotr32 0x80000001 7 = 0x03000000

/-! ### VINIT, ROUND, FOLD, F -/

/-- R91: VINIT builds the working vector from the state, the IV, the counter and the flag, and changes nothing else.
That VINIT completes after EXTRACT, on the freed registers it reads, is the model's choice (log entry 18). -/
def Obligations.VinitBuildsWorkingVector : Prop :=
  ∀ s : State, s.written.h = true → s.written.t = true → s.written.f0 = true →
    ∃ t, exec .vinit s = .next t ∧ t = { s with v := t.v, written := { s.written with v := true } } ∧
      (∀ i : Fin 8, t.v[i.val] = s.h[i]) ∧ (∀ i : Fin 4, t.v[8 + i.val] = iv[i.val]) ∧
      t.v[12] = iv[4] ^^^ s.t0 ∧ t.v[13] = iv[5] ^^^ s.t1 ∧
      t.v[14] = (if s.f0 then 0xE07C2654 else 0x1F83D9AB) ∧ t.v[15] = 0x5BE0CD19

/-- R93: FOLD XORs both halves of the working vector into the state and changes nothing else that is read again (`v` is
dead, R10). That FOLD completes on a dead `v` too is the model's choice (log entry 18). -/
def Obligations.FoldFoldsBothHalves : Prop :=
  ∀ s : State, s.written.h = true → s.written.v = true →
    ∃ t, exec .fold s = .next t ∧ t = { s with h := t.h, v := t.v, draws := t.draws } ∧
      ∀ i : Fin 8, t.h[i] = s.h[i] ^^^ s.v[i.val] ^^^ s.v[i.val + 8]

/-- R92: ROUND r completes and equals its eight G in order. The last clause is about a term no word decodes to: that its
exec raises IllegalControlWord is the model's choice (log entry 10); R58 and R92 give the exception at decode. That ROUND
completes on a dead `v` too is the model's choice as well (log entry 18). -/
def Obligations.RoundIsEightG : Prop :=
  (∀ (r : Fin 10) (s : State), s.written.v = true → s.written.m = true →
    ∃ t, exec (.round (BitVec.ofNat 4 r.val)) s = .next t ∧ t = { s with v := t.v } ∧
      execAll ((List.finRange 8).map (roundWord r)) s = .next t) ∧
  (∀ (r : Index) (s : State), 9 < r.toNat → exec (.round r) s = .next (afterException 5 s))

/-- R92: the working vector after ROUND r, as the eight steps' pseudocode gives it. That ROUND completes on a dead `v` too is
the model's choice (log entry 18). -/
def Obligations.RoundComputesRoundFn : Prop :=
  ∀ (r : Fin 10) (s : State), s.written.v = true → s.written.m = true →
    exec (.round (BitVec.ofNat 4 r.val)) s = .next { s with v := roundFn s.m s.v r }

/-- R94: F is VINIT, ROUND 0 to ROUND 9, FOLD, from sequencer position 0; written out, the 82 control words of the
microprogram. That F completes after EXTRACT, on the freed registers it reads, is the model's choice (log entry 18). -/
def Obligations.FIsVinitTenRoundsFold : Prop :=
  ∀ s : State, s.written.h = true → s.written.m = true → s.written.t = true → s.written.f0 = true →
    ∃ t, exec .f s = .next t ∧
      execAll ([.vinit] ++ (List.finRange 10).map (fun r => .round (BitVec.ofNat 4 r.val)) ++ [.fold])
        { s with pc := 0 } = .next t ∧
      execAll ([.vinit] ++ (List.finRange 10).flatMap (fun r => (List.finRange 8).map (roundWord r)) ++ [.fold])
        { s with pc := 0 } = .next t

/-- R90, R94, R95: F replaces the state by F_fn of its inputs and changes nothing else that is read again: `v` is scratch
and `pc` is back at 0. That F completes after EXTRACT, on the freed registers it reads, is the model's choice (log entry
18). -/
def Obligations.FComputesCompression : Prop :=
  ∀ s : State, s.written.h = true → s.written.m = true → s.written.t = true → s.written.f0 = true →
    ∃ t, exec .f s = .next t ∧ t.h = compressFn s.h s.m s.t0 s.t1 s.f0 ∧
      t = { s with h := t.h, v := t.v, pc := 0, written := { s.written with v := true }, draws := t.draws }

/-- R67, R21, R96: the words of the microprogram; the sequencer's position is `k` after `k` words up to 81, 0 again after
word 81, and never above 81; F is that run of 82 words and leaves the position at 0. That the positions pass inside the one
step of F is the model's reading (log entry 14), and that F completes after EXTRACT, on the freed registers it reads, its
choice (log entry 18). The words are given through IDX and SIGMA; the words R67 prints are checked in Tests/Slice0.lean
(`test_urom_ends`, `test_urom_round0` to `test_urom_round9`). -/
def Obligations.MicroprogramIsStraightLine : Prop :=
  urom 0 = .vinit ∧ urom 81 = .fold ∧
  (∀ (r : Fin 10) (i : Fin 8), urom (1 + 8 * r.val + i.val) =
    .g (idxTable[i]).1 (idxTable[i]).2.1 (idxTable[i]).2.2.1 (idxTable[i]).2.2.2
      (sigma r ⟨2 * i.val, by omega⟩) (sigma r ⟨2 * i.val + 1, by omega⟩)) ∧
  (∀ (s : State) (k : Nat), k ≤ 81 → (microRun k { s with pc := 0 }).pc.toNat = k) ∧
  (∀ s : State, (microRun 82 { s with pc := 0 }).pc = 0) ∧
  (∀ s : State, s.pc.toNat ≤ 81 → (microStep s).pc.toNat ≤ 81) ∧
  ∀ s : State, s.written.h = true → s.written.m = true → s.written.t = true → s.written.f0 = true →
    ∃ t, exec .f s = .next t ∧ t = microRun 82 { s with pc := 0 } ∧ t.pc = 0

/-- R64: every row of SIGMA is a permutation of 0 to 15, so a round reads every message word once (R92). -/
def Obligations.SigmaRowsArePermutations : Prop :=
  ∀ r : Fin 10, ((List.finRange 16).map fun c => (sigma r c).toNat).Perm (List.range 16)

/-! ### INIT -/

/-- R110, R113, R114, R115, R117: INIT with legal lengths. The written marks it assumes are the model's reading of R27 (log
entry 6). HASH marks salt, pers and key and its EXTRACT frees them, so a direct INIT that the port can complete runs on freed
registers: that it completes there is the model's choice (log entry 18). -/
def Obligations.InitBuildsInitialState : Prop :=
  ∀ (n k : Byte) (s : State), s.phase = .idle → 1 ≤ n.toNat → n.toNat ≤ 32 → k.toNat ≤ 32 →
    s.written.salt = true → s.written.pers = true → (0 < k.toNat → s.written.key = true) →
    ∃ t, exec (.init n k) s = .next t ∧
      t = { s with nn := n, kk := k, h := t.h, t0 := 0, t1 := 0, f0 := false, inq := t.inq, phase := .continuing,
                   written := { s.written with h := true, t := true, f0 := true } } ∧
      t.h[0] = iv[0] ^^^ (0x01010000#32 ||| (k.setWidth 32 <<< 8) ||| n.setWidth 32) ∧
      t.h[1] = iv[1] ∧ t.h[2] = iv[2] ∧ t.h[3] = iv[3] ∧
      t.h[4] = iv[4] ^^^ le32 s.salt[0] s.salt[1] s.salt[2] s.salt[3] ∧
      t.h[5] = iv[5] ^^^ le32 s.salt[4] s.salt[5] s.salt[6] s.salt[7] ∧
      t.h[6] = iv[6] ^^^ le32 s.pers[0] s.pers[1] s.pers[2] s.pers[3] ∧
      t.h[7] = iv[7] ^^^ le32 s.pers[4] s.pers[5] s.pers[6] s.pers[7] ∧
      (k.toNat = 0 → t.inq = s.inq) ∧
      (0 < k.toNat → t.inq = s.key.toList.take k.toNat ++ List.replicate (64 - k.toNat) 0 ++ s.inq ∧
        t.inq.length = 64 + s.inq.length)

/-- R111: INIT rejects illegal lengths, the digest length first, before any register is written; no length is clamped. -/
def Obligations.InitRejectsIllegalLengths : Prop :=
  ∀ (n k : Byte) (s : State), s.phase = .idle →
    ((n.toNat < 1 ∨ 32 < n.toNat) → exec (.init n k) s = .next (afterException 1 s)) ∧
    (1 ≤ n.toNat → n.toNat ≤ 32 → 32 < k.toNat → exec (.init n k) s = .next (afterException 2 s))

/-- The model's reading of R27 for a directly issued INIT (log entry 6): a legal INIT whose salt, personalization or
(with a key) key was never written raises ProtocolError. -/
def Obligations.InitNeedsWrittenParameters : Prop :=
  ∀ (n k : Byte) (s : State), s.phase = .idle → 1 ≤ n.toNat → n.toNat ≤ 32 → k.toNat ≤ 32 →
    (s.written.salt = false ∨ s.written.pers = false ∨ (0 < k.toNat ∧ s.written.key = false)) →
    exec (.init n k) s = .next (afterException 6 s)

/-- R116: with a key and an empty message the key block is the only block and it is final: after INIT 64 bytes wait, no
ABSORB is allowed, and FINAL 64 completes with counter 64 and `f0` set. That its INIT
completes on salt, pers and key that an EXTRACT has freed is the model's choice (log entry 18), the marks its reading of R27
(log entry 6). -/
def Obligations.KeyBlockAloneIsFinal : Prop :=
  ∀ (n k : Byte) (s : State), s.phase = .idle → 1 ≤ n.toNat → n.toNat ≤ 32 → 0 < k.toNat → k.toNat ≤ 32 →
    s.written.salt = true → s.written.pers = true → s.written.key = true → s.inq = [] →
    ∃ u t, exec (.init n k) s = .next u ∧ exec .absorb u = .next (afterException 6 u) ∧
      exec (.final 64) u = .next t ∧ t.f0 = true ∧ t.t0 = 64 ∧ t.t1 = 0 ∧ t.phase = .final ∧ t.inq = [] ∧
      t.h = compressFn u.h (blockWords (fieldBytes s.key k.toNat)) 64 0 true

/-! ### ABSORB, FINAL and their sequencing -/

/-- R131 (with R32, R35): ABSORB. -/
def Obligations.AbsorbCompressesOneBlock : Prop :=
  ∀ s : State, s.phase = .continuing → 64 < s.inq.length → counter s + 64 < 2 ^ 64 →
    ∃ t, exec .absorb s = .next t ∧
      (∀ j : Fin 64, s.inq[j.val]? = some t.B[j]) ∧ t.inq = s.inq.drop 64 ∧
      (∀ i : Fin 16, t.m[i] = le32 t.B[4 * i.val] t.B[4 * i.val + 1] t.B[4 * i.val + 2] t.B[4 * i.val + 3]) ∧
      counter t = counter s + 64 ∧ t.h = compressFn s.h t.m t.t0 t.t1 s.f0 ∧
      t = { s with B := t.B, m := t.m, t0 := t.t0, t1 := t.t1, inq := t.inq, h := t.h, v := t.v, pc := 0,
                   written := { s.written with v := true, m := true, t := true }, draws := t.draws }

/-- R132 (with R32, R35, R36): FINAL len. -/
def Obligations.FinalCompressesLastBlock : Prop :=
  ∀ (len : BitVec 7) (s : State), len.toNat ≤ 64 → s.phase = .continuing → len.toNat = s.inq.length →
    counter s + len.toNat < 2 ^ 64 →
    ∃ t, exec (.final len) s = .next t ∧
      (∀ j : Fin 64, j.val < len.toNat → s.inq[j.val]? = some t.B[j]) ∧
      (∀ j : Fin 64, len.toNat ≤ j.val → t.B[j] = 0) ∧
      (∀ i : Fin 16, t.m[i] = le32 t.B[4 * i.val] t.B[4 * i.val + 1] t.B[4 * i.val + 2] t.B[4 * i.val + 3]) ∧
      counter t = counter s + len.toNat ∧ t.h = compressFn s.h t.m t.t0 t.t1 true ∧
      t = { s with B := t.B, m := t.m, t0 := t.t0, t1 := t.t1, f0 := true, phase := .final, inq := [], h := t.h,
                   v := t.v, pc := 0, written := { s.written with v := true, m := true, t := true, f0 := true },
                   draws := t.draws }

/-- R133: the counter carries from `t0` into `t1`; an increment that would pass 2^64 - 1 is refused. -/
def Obligations.CounterCarriesIntoHighWord : Prop :=
  (∀ s t : State, s.phase = .continuing → 64 < s.inq.length → exec .absorb s = .next t →
    t.t0 = s.t0 + 64 ∧ t.t1 = if 2 ^ 32 ≤ s.t0.toNat + 64 then s.t1 + 1 else s.t1) ∧
  (∀ (len : BitVec 7) (s t : State), s.phase = .continuing → len.toNat = s.inq.length → len.toNat ≤ 64 →
    exec (.final len) s = .next t →
    t.t0 = s.t0 + len.setWidth 32 ∧ t.t1 = if 2 ^ 32 ≤ s.t0.toNat + len.toNat then s.t1 + 1 else s.t1) ∧
  (∀ s : State, s.phase = .continuing → 64 < s.inq.length → 2 ^ 64 ≤ counter s + 64 →
    exec .absorb s = .refused .counterOverflow) ∧
  (∀ (len : BitVec 7) (s : State), s.phase = .continuing → len.toNat = s.inq.length → len.toNat ≤ 64 →
    2 ^ 64 ≤ counter s + len.toNat → exec (.final len) s = .refused .counterOverflow)

/-- R134, R136: an input of `L` bytes takes `max(1, ceil(L/64))` compressions, all but the last ABSORB with counters 64
apart, the last one FINAL with what remains; the sequencing rule runs exactly these words, and the state is PIPE_fn's. -/
def Obligations.InputTakesItsBlocksInOrder : Prop :=
  ∀ s : State, s.phase = .continuing → s.f0 = false → counter s + s.inq.length < 2 ^ 64 →
    (∀ k, k ≤ (s.inq.length - 1) / 64 → ∃ u, execAll (List.replicate k .absorb) s = .next u ∧
      counter u = counter s + 64 * k ∧ u.inq = s.inq.drop (64 * k) ∧ u.phase = .continuing) ∧
    ∃ t, execAll (List.replicate ((s.inq.length - 1) / 64) .absorb ++
          [.final (BitVec.ofNat 7 (s.inq.length - 64 * ((s.inq.length - 1) / 64)))]) s = .next t ∧
      pipeline s = .done t ∧ t.phase = .final ∧ t.f0 = true ∧ t.inq = [] ∧
      counter t = counter s + s.inq.length ∧ t.h = pipeFn s.inq.length s.h (counter s) s.inq

/-- R34: MemRead and MemWrite are defined for 4 bytes at multiples of 4 inside the buffer, little-endian, and for
nothing else. -/
def Obligations.BufferAccessesAreAlignedWords : Prop :=
  (∀ (B : Vector Byte 64) (i : Fin 16), memRead B (4 * i.val) 4 =
    some (le32 B[4 * i.val] B[4 * i.val + 1] B[4 * i.val + 2] B[4 * i.val + 3])) ∧
  (∀ (B : Vector Byte 64) (addr n : Nat), ¬ (n = 4 ∧ addr % 4 = 0 ∧ addr ≤ 60) → memRead B addr n = none) ∧
  (∀ (D : Vector Byte 32) (i : Fin 8) (e : Word), ∃ D', memWrite D (4 * i.val) 4 e = some D' ∧
    ∀ p : Fin 32, D'[p] = if 4 * i.val ≤ p.val ∧ p.val < 4 * i.val + 4
      then e.extractLsb' (8 * (p.val - 4 * i.val)) 8 else D[p]) ∧
  (∀ (D : Vector Byte 32) (addr n : Nat) (e : Word), ¬ (n = 4 ∧ addr % 4 = 0 ∧ addr ≤ 28) → memWrite D addr n e = none)

/-! ### EXTRACT -/

/-- R150, R151, R152: EXTRACT completes in phase FINAL: it serializes the state little-endian, word 0 first, and puts out
the first `nn` bytes. What `D` holds once EXTRACT is over is left open by R153, U7 and U9 (`D[nn..31]`): that it is R151's
value is the model's choice (log entry 8), and so is `digestOut` as the place of the digest (log entry 13). -/
def Obligations.ExtractSerializesState : Prop :=
  ∀ s : State, s.phase = .final →
    ∃ t, exec .extract s = .next t ∧
      (∀ (i : Fin 8) (j : Fin 4), t.D[4 * i.val + j.val] = (s.h[i]).extractLsb' (8 * j.val) 8) ∧
      t.digestOut = some (t.D.toList.take s.nn.toNat) ∧ t.digestOut = some (extractFn s.h s.nn.toNat) ∧
      t.phase = .idle

/-- R153: EXTRACT ends the invocation, so a second EXTRACT is a ProtocolError. -/
def Obligations.SecondExtractIsProtocolError : Prop :=
  ∀ s : State, s.phase = .final →
    ∃ t, exec .extract s = .next t ∧ t.phase = .idle ∧ exec .extract t = .next (afterException 6 t)

/-! ### HASH and HASH256 -/

/-- R161: HASH with legal lengths on an idle core answers status 0 and the digest HASH_fn gives, `n` bytes long. The bound
is the model's MAX_INPUT (log entry 11). The clauses on the state after the transaction (the digest is `D`'s first bytes,
`inq` is empty) are the model's choice: R153 and U7 leave those registers open (log entry 8). -/
def Obligations.HashAnswersItsDigest : Prop :=
  ∀ (n klen : Byte) (slen plen : Index) (s : State), s.phase = .idle → 1 ≤ n.toNat → n.toNat ≤ 32 →
    klen.toNat ≤ 32 → slen.toNat ≤ 8 → plen.toNat ≤ 8 → inputLength klen s ≤ Config.maxInput →
    ∃ t d, exec (.hash n klen slen plen) s = .next t ∧ t.response = some ⟨0, some d⟩ ∧ t.status = 0 ∧
      d = digestFn s.request.msg (fieldBytes s.request.keyD klen.toNat) n (fieldBytes s.request.saltD slen.toNat)
        (fieldBytes s.request.persD plen.toNat) ∧
      d.length = n.toNat ∧ d = t.D.toList.take n.toNat ∧ t.phase = .idle ∧ t.inq = [] ∧ t.pc = 0 ∧ t.f1 = s.f1 ∧
      t.request = s.request ∧ t.pending = s.pending ∧ t.resetPin = s.resetPin

/-- R162: HASH256 is HASH 32,0,0,0 on the same message; it completes on an idle core with the unkeyed 32-byte digest,
whatever the request's key, salt and personalization fields hold. The bound of the completion clause is the model's MAX_INPUT
(R164, D25; log entry 11). -/
def Obligations.Hash256IsDefaultHash : Prop :=
  (∀ s : State, exec .hash256 s = exec (.hash 32 0 0 0) s) ∧
  ∀ s : State, s.phase = .idle → s.request.msg.length ≤ Config.maxInput →
    ∃ t, exec .hash256 s = .next t ∧ t.status = 0 ∧ t.response = some ⟨0, some (digestFn s.request.msg [] 32 [] [])⟩

/-- R181, R182: every illegal length is reported before anything is written. Which code when several are illegal (the
lowest, R183) is the spec's own decision D8, and U16 says a claim on it rests on that choice alone. -/
def Obligations.LengthErrorsComeFirst : Prop :=
  ∀ (n klen : Byte) (slen plen : Index) (s : State), s.phase = .idle →
    ((n.toNat < 1 ∨ 32 < n.toNat) → exec (.hash n klen slen plen) s = .next (afterException 1 s) ∧
      exec (.init n klen) s = .next (afterException 1 s)) ∧
    (1 ≤ n.toNat → n.toNat ≤ 32 → 32 < klen.toNat → exec (.hash n klen slen plen) s = .next (afterException 2 s) ∧
      exec (.init n klen) s = .next (afterException 2 s)) ∧
    (1 ≤ n.toNat → n.toNat ≤ 32 → klen.toNat ≤ 32 → 8 < slen.toNat →
      exec (.hash n klen slen plen) s = .next (afterException 3 s)) ∧
    (1 ≤ n.toNat → n.toNat ≤ 32 → klen.toNat ≤ 32 → slen.toNat ≤ 8 → 8 < plen.toNat →
      exec (.hash n klen slen plen) s = .next (afterException 4 s))

/-- D25, U14, R164: a request whose key block and message exceed MAX_INPUT is refused (log entry 11: the default). -/
def Obligations.TooLongInputIsRefused : Prop :=
  ∀ (n klen : Byte) (slen plen : Index) (s : State), s.phase = .idle → 1 ≤ n.toNat → n.toNat ≤ 32 →
    klen.toNat ≤ 32 → slen.toNat ≤ 8 → plen.toNat ≤ 8 →
    (if klen.toNat = 0 then 0 else 64) + s.request.msg.length > Config.maxInput →
    exec (.hash n klen slen plen) s = .refused .inputTooLong

/-- R163: the response to a HASH or HASH256 request on an idle core depends on the request alone, not on an earlier
transaction or on reset. That a request stands in the state, and that one longer than MAX_INPUT is refused, are the
model's reading (log entries 3, 11). -/
def Obligations.ResponseDependsOnRequestAlone : Prop :=
  ∀ (s₁ s₂ : State) (i : Instr), s₁.request = s₂.request → s₁.phase = .idle → s₂.phase = .idle →
    s₁.pending = true → s₂.pending = true → s₁.resetPin = false → s₂.resetPin = false →
    decode s₁.request.cw = .ok i → (i = .hash256 ∨ ∃ n klen slen plen, i = .hash n klen slen plen) →
    (∃ t₁ t₂, step s₁ = .next t₁ ∧ step s₂ = .next t₂ ∧ t₁.response = t₂.response ∧ t₁.status = t₂.status ∧
      t₁.response.isSome) ∨
    (∃ r, step s₁ = .refused r ∧ step s₂ = .refused r)

/-- D26 (R160 corner cases, R161): request bytes at or beyond the stated lengths are ignored, whatever they hold. -/
def Obligations.BytesBeyondLengthsAreIgnored : Prop :=
  ∀ (n klen : Byte) (slen plen : Index) (s : State) (key : Vector Byte 32) (salt pers : Vector Byte 8),
    (∀ j : Fin 32, j.val < klen.toNat → key[j] = s.request.keyD[j]) →
    (∀ j : Fin 8, j.val < slen.toNat → salt[j] = s.request.saltD[j]) →
    (∀ j : Fin 8, j.val < plen.toNat → pers[j] = s.request.persD[j]) →
    let other : State := { s with request := { s.request with keyD := key, saltD := salt, persD := pers } }
    match exec (.hash n klen slen plen) s with
    | .next t => exec (.hash n klen slen plen) other = .next { t with request := other.request }
    | .fault f => exec (.hash n klen slen plen) other = .fault f
    | .refused r => exec (.hash n klen slen plen) other = .refused r

/-! ### Rules about the whole machine -/

/-- R187: when ProtocolError is raised, and that a HASH on an idle core never raises it. The
written marks are the model's reading of R187 (log entry 5). -/
def Obligations.ProtocolErrorsAreRaised : Prop :=
  ∀ s : State,
    (s.phase ≠ .idle → (∀ n k, exec (.init n k) s = .next (afterException 6 s)) ∧
      (∀ n klen slen plen, exec (.hash n klen slen plen) s = .next (afterException 6 s)) ∧
      exec .hash256 s = .next (afterException 6 s)) ∧
    (s.phase ≠ .continuing → exec .absorb s = .next (afterException 6 s) ∧
      ∀ len : BitVec 7, len.toNat ≤ 64 → exec (.final len) s = .next (afterException 6 s)) ∧
    (s.inq.length ≤ 64 → exec .absorb s = .next (afterException 6 s)) ∧
    (∀ len : BitVec 7, len.toNat ≤ 64 → len.toNat ≠ s.inq.length → exec (.final len) s = .next (afterException 6 s)) ∧
    (s.phase ≠ .final → exec .extract s = .next (afterException 6 s)) ∧
    ((s.written.h = false ∨ s.written.t = false ∨ s.written.f0 = false) →
      exec .vinit s = .next (afterException 6 s)) ∧
    ((s.written.h = false ∨ s.written.v = false) → exec .fold s = .next (afterException 6 s)) ∧
    ((s.written.h = false ∨ s.written.m = false ∨ s.written.t = false ∨ s.written.f0 = false) →
      exec .f s = .next (afterException 6 s)) ∧
    ((s.written.v = false ∨ s.written.m = false) →
      (∀ r : Index, r.toNat ≤ 9 → exec (.round r) s = .next (afterException 6 s)) ∧
      ∀ a b c d sx sy : Index, [a, b, c, d].Pairwise (· ≠ ·) →
        exec (.g a b c d sx sy) s = .next (afterException 6 s)) ∧
    (s.phase = .idle → ∀ t, (exec .hash256 s = .next t ∨ ∃ n klen slen plen, exec (.hash n klen slen plen) s = .next t) →
      t.status ≠ 6)

/-- R184: whatever a control word does, either it leaves `status` and the response alone, or it raised an exception and
wrote nothing else, or it is HASH or HASH256 and succeeded. That a unit-level word that succeeds writes no status is the
model's choice (log entry 13). -/
def Obligations.ExceptionsWriteOnlyStatus : Prop :=
  ∀ (i : Instr) (s t : State), exec i s = .next t →
    (t.status = s.status ∧ t.response = s.response) ∨
    (∃ c : Cause, t = { s with status := c.code, response := some ⟨c.code, none⟩ }) ∨
    ((i = .hash256 ∨ ∃ n klen slen plen, i = .hash n klen slen plen) ∧ t.status = 0 ∧
      ∃ d, t.response = some ⟨0, some d⟩)

/-- R138: the transitions of the phase register, complete. -/
def Obligations.PhaseTransitionsAreComplete : Prop :=
  ∀ (i : Instr) (s t : State), exec i s = .next t →
    (∃ c : Cause, t = afterException c.code s) ∨
    match i with
    | .g _ _ _ _ _ _ => t.phase = s.phase
    | .vinit => t.phase = s.phase
    | .fold => t.phase = s.phase
    | .round _ => t.phase = s.phase
    | .f => t.phase = s.phase
    | .init n k => s.phase = .idle ∧ 1 ≤ n.toNat ∧ n.toNat ≤ 32 ∧ k.toNat ≤ 32 ∧ t.phase = .continuing ∧
        t.f0 = false ∧ counter t = 0
    | .absorb => s.phase = .continuing ∧ 64 < s.inq.length ∧ t.phase = .continuing ∧ counter t = counter s + 64
    | .final len => s.phase = .continuing ∧ len.toNat = s.inq.length ∧ t.phase = .final ∧
        counter t = counter s + len.toNat ∧ t.f0 = true
    | .extract => s.phase = .final ∧ t.phase = .idle ∧ t.digestOut.isSome
    | .hash _ _ _ _ => s.phase = .idle ∧ t.phase = .idle
    | .hash256 => s.phase = .idle ∧ t.phase = .idle

/-- 10_state section 1 (columns "written by"): what each control word may write; everything else is unchanged. `status`
and the response belong to the exception every word can raise. What EXTRACT and
HASH keep, and what they free, is the model's choice (log entry 8). -/
def Obligations.ControlWordsKeepTheirFrames : Prop :=
  ∀ (i : Instr) (s t : State), exec i s = .next t →
    match i with
    | .g _ _ _ _ _ _ => t = { s with v := t.v, status := t.status, response := t.response }
    | .round _ => t = { s with v := t.v, status := t.status, response := t.response }
    | .vinit => t = { s with v := t.v, written := t.written, status := t.status, response := t.response }
    | .fold => t = { s with h := t.h, v := t.v, draws := t.draws, status := t.status, response := t.response }
    | .f => t = { s with h := t.h, v := t.v, pc := t.pc, written := t.written, draws := t.draws, status := t.status,
                         response := t.response }
    | .init _ _ => t = { s with nn := t.nn, kk := t.kk, h := t.h, t0 := t.t0, t1 := t.t1, f0 := t.f0, inq := t.inq,
                                phase := t.phase, written := t.written, status := t.status, response := t.response }
    | .absorb => t = { s with B := t.B, m := t.m, t0 := t.t0, t1 := t.t1, inq := t.inq, h := t.h, v := t.v, pc := t.pc,
                              written := t.written, draws := t.draws, status := t.status, response := t.response }
    | .final _ => t = { s with B := t.B, m := t.m, t0 := t.t0, t1 := t.t1, f0 := t.f0, phase := t.phase, inq := t.inq,
                               h := t.h, v := t.v, pc := t.pc, written := t.written, draws := t.draws,
                               status := t.status, response := t.response }
    | .extract => t.f1 = s.f1 ∧ t.inq = s.inq ∧ t.pc = s.pc ∧ t.written = s.written ∧ t.request = s.request ∧
        t.pending = s.pending ∧ t.resetPin = s.resetPin
    | .hash _ _ _ _ => t.f1 = s.f1 ∧ t.request = s.request ∧ t.pending = s.pending ∧ t.resetPin = s.resetPin
    | .hash256 => t.f1 = s.f1 ∧ t.request = s.request ∧ t.pending = s.pending ∧ t.resetPin = s.resetPin

/-- D6 (R14): the last-node flag is read by no control word and has no effect on any result. -/
def Obligations.LastNodeFlagHasNoEffect : Prop :=
  ∀ (i : Instr) (s : State) (b : Bool),
    match exec i s with
    | .next t => exec i { s with f1 := b } = .next { t with f1 := b } ∧ t.f1 = s.f1
    | .fault f => exec i { s with f1 := b } = .fault f
    | .refused r => exec i { s with f1 := b } = .refused r

/-- The invariant holds after reset. -/
def Obligations.InvariantHoldsAtReset : Prop := Inv State.reset

/-- R20, R24: every step keeps the invariant, from every state that meets it. -/
def Obligations.StepKeepsInvariant : Prop :=
  ∀ s t : State, Inv s → step s = .next t → Inv t
end

