-- ==== Sys2Proof/Laws/State.lean ====
section
/-! SUPPORT. One lemma per field per named update of the state: what the update makes of it. -/

namespace Sys2Proof.Machine

@[simp] theorem takeException_v (c : Cause) (s : State) : (takeException c s).v = s.v := by rw [takeException]
@[simp] theorem takeException_h (c : Cause) (s : State) : (takeException c s).h = s.h := by rw [takeException]
@[simp] theorem takeException_m (c : Cause) (s : State) : (takeException c s).m = s.m := by rw [takeException]
@[simp] theorem takeException_t0 (c : Cause) (s : State) : (takeException c s).t0 = s.t0 := by rw [takeException]
@[simp] theorem takeException_t1 (c : Cause) (s : State) : (takeException c s).t1 = s.t1 := by rw [takeException]
@[simp] theorem takeException_f0 (c : Cause) (s : State) : (takeException c s).f0 = s.f0 := by rw [takeException]
@[simp] theorem takeException_f1 (c : Cause) (s : State) : (takeException c s).f1 = s.f1 := by rw [takeException]
@[simp] theorem takeException_nn (c : Cause) (s : State) : (takeException c s).nn = s.nn := by rw [takeException]
@[simp] theorem takeException_kk (c : Cause) (s : State) : (takeException c s).kk = s.kk := by rw [takeException]
@[simp] theorem takeException_key (c : Cause) (s : State) : (takeException c s).key = s.key := by rw [takeException]
@[simp] theorem takeException_salt (c : Cause) (s : State) : (takeException c s).salt = s.salt := by rw [takeException]
@[simp] theorem takeException_pers (c : Cause) (s : State) : (takeException c s).pers = s.pers := by rw [takeException]
@[simp] theorem takeException_B (c : Cause) (s : State) : (takeException c s).B = s.B := by rw [takeException]
@[simp] theorem takeException_D (c : Cause) (s : State) : (takeException c s).D = s.D := by rw [takeException]
@[simp] theorem takeException_inq (c : Cause) (s : State) : (takeException c s).inq = s.inq := by rw [takeException]
@[simp] theorem takeException_phase (c : Cause) (s : State) : (takeException c s).phase = s.phase := by rw [takeException]
@[simp] theorem takeException_pc (c : Cause) (s : State) : (takeException c s).pc = s.pc := by rw [takeException]
@[simp] theorem takeException_status (c : Cause) (s : State) : (takeException c s).status = c.code := by rw [takeException]
@[simp] theorem takeException_request (c : Cause) (s : State) : (takeException c s).request = s.request := by rw [takeException]
@[simp] theorem takeException_pending (c : Cause) (s : State) : (takeException c s).pending = s.pending := by rw [takeException]
@[simp] theorem takeException_resetPin (c : Cause) (s : State) : (takeException c s).resetPin = s.resetPin := by rw [takeException]
@[simp] theorem takeException_response (c : Cause) (s : State) : (takeException c s).response = some ⟨c.code, none⟩ := by rw [takeException]
@[simp] theorem takeException_digestOut (c : Cause) (s : State) : (takeException c s).digestOut = s.digestOut := by rw [takeException]
@[simp] theorem takeException_written (c : Cause) (s : State) : (takeException c s).written = s.written := by rw [takeException]
@[simp] theorem takeException_draws (c : Cause) (s : State) : (takeException c s).draws = s.draws := by rw [takeException]

@[simp] theorem accept_v (s : State) : (accept s).v = s.v := by rw [accept]
@[simp] theorem accept_h (s : State) : (accept s).h = s.h := by rw [accept]
@[simp] theorem accept_m (s : State) : (accept s).m = s.m := by rw [accept]
@[simp] theorem accept_t0 (s : State) : (accept s).t0 = s.t0 := by rw [accept]
@[simp] theorem accept_t1 (s : State) : (accept s).t1 = s.t1 := by rw [accept]
@[simp] theorem accept_f0 (s : State) : (accept s).f0 = s.f0 := by rw [accept]
@[simp] theorem accept_f1 (s : State) : (accept s).f1 = s.f1 := by rw [accept]
@[simp] theorem accept_nn (s : State) : (accept s).nn = s.nn := by rw [accept]
@[simp] theorem accept_kk (s : State) : (accept s).kk = s.kk := by rw [accept]
@[simp] theorem accept_key (s : State) : (accept s).key = s.key := by rw [accept]
@[simp] theorem accept_salt (s : State) : (accept s).salt = s.salt := by rw [accept]
@[simp] theorem accept_pers (s : State) : (accept s).pers = s.pers := by rw [accept]
@[simp] theorem accept_B (s : State) : (accept s).B = s.B := by rw [accept]
@[simp] theorem accept_D (s : State) : (accept s).D = s.D := by rw [accept]
@[simp] theorem accept_inq (s : State) : (accept s).inq = s.inq := by rw [accept]
@[simp] theorem accept_phase (s : State) : (accept s).phase = s.phase := by rw [accept]
@[simp] theorem accept_pc (s : State) : (accept s).pc = s.pc := by rw [accept]
@[simp] theorem accept_status (s : State) : (accept s).status = s.status := by rw [accept]
@[simp] theorem accept_request (s : State) : (accept s).request = s.request := by rw [accept]
@[simp] theorem accept_pending (s : State) : (accept s).pending = false := by rw [accept]
@[simp] theorem accept_resetPin (s : State) : (accept s).resetPin = s.resetPin := by rw [accept]
@[simp] theorem accept_response (s : State) : (accept s).response = none := by rw [accept]
@[simp] theorem accept_digestOut (s : State) : (accept s).digestOut = none := by rw [accept]
@[simp] theorem accept_written (s : State) : (accept s).written = s.written := by rw [accept]
@[simp] theorem accept_draws (s : State) : (accept s).draws = s.draws := by rw [accept]

@[simp] theorem respond_v (n : Nat) (s : State) : (respond n s).v = s.v := by rw [respond]
@[simp] theorem respond_h (n : Nat) (s : State) : (respond n s).h = s.h := by rw [respond]
@[simp] theorem respond_m (n : Nat) (s : State) : (respond n s).m = s.m := by rw [respond]
@[simp] theorem respond_t0 (n : Nat) (s : State) : (respond n s).t0 = s.t0 := by rw [respond]
@[simp] theorem respond_t1 (n : Nat) (s : State) : (respond n s).t1 = s.t1 := by rw [respond]
@[simp] theorem respond_f0 (n : Nat) (s : State) : (respond n s).f0 = s.f0 := by rw [respond]
@[simp] theorem respond_f1 (n : Nat) (s : State) : (respond n s).f1 = s.f1 := by rw [respond]
@[simp] theorem respond_nn (n : Nat) (s : State) : (respond n s).nn = s.nn := by rw [respond]
@[simp] theorem respond_kk (n : Nat) (s : State) : (respond n s).kk = s.kk := by rw [respond]
@[simp] theorem respond_key (n : Nat) (s : State) : (respond n s).key = s.key := by rw [respond]
@[simp] theorem respond_salt (n : Nat) (s : State) : (respond n s).salt = s.salt := by rw [respond]
@[simp] theorem respond_pers (n : Nat) (s : State) : (respond n s).pers = s.pers := by rw [respond]
@[simp] theorem respond_B (n : Nat) (s : State) : (respond n s).B = s.B := by rw [respond]
@[simp] theorem respond_D (n : Nat) (s : State) : (respond n s).D = s.D := by rw [respond]
@[simp] theorem respond_inq (n : Nat) (s : State) : (respond n s).inq = s.inq := by rw [respond]
@[simp] theorem respond_phase (n : Nat) (s : State) : (respond n s).phase = s.phase := by rw [respond]
@[simp] theorem respond_pc (n : Nat) (s : State) : (respond n s).pc = s.pc := by rw [respond]
@[simp] theorem respond_status (n : Nat) (s : State) : (respond n s).status = 0 := by rw [respond]
@[simp] theorem respond_request (n : Nat) (s : State) : (respond n s).request = s.request := by rw [respond]
@[simp] theorem respond_pending (n : Nat) (s : State) : (respond n s).pending = s.pending := by rw [respond]
@[simp] theorem respond_resetPin (n : Nat) (s : State) : (respond n s).resetPin = s.resetPin := by rw [respond]
@[simp] theorem respond_response (n : Nat) (s : State) : (respond n s).response = some ⟨0, some (s.D.toList.take n)⟩ := by rw [respond]
@[simp] theorem respond_digestOut (n : Nat) (s : State) : (respond n s).digestOut = s.digestOut := by rw [respond]
@[simp] theorem respond_written (n : Nat) (s : State) : (respond n s).written = s.written := by rw [respond]
@[simp] theorem respond_draws (n : Nat) (s : State) : (respond n s).draws = s.draws := by rw [respond]

@[simp] theorem setCounter_v (t : Nat) (s : State) : (setCounter t s).v = s.v := by rw [setCounter]
@[simp] theorem setCounter_h (t : Nat) (s : State) : (setCounter t s).h = s.h := by rw [setCounter]
@[simp] theorem setCounter_m (t : Nat) (s : State) : (setCounter t s).m = s.m := by rw [setCounter]
@[simp] theorem setCounter_t0 (t : Nat) (s : State) : (setCounter t s).t0 = BitVec.ofNat 32 t := by rw [setCounter]
@[simp] theorem setCounter_t1 (t : Nat) (s : State) : (setCounter t s).t1 = BitVec.ofNat 32 (t / 2 ^ 32) := by rw [setCounter]
@[simp] theorem setCounter_f0 (t : Nat) (s : State) : (setCounter t s).f0 = s.f0 := by rw [setCounter]
@[simp] theorem setCounter_f1 (t : Nat) (s : State) : (setCounter t s).f1 = s.f1 := by rw [setCounter]
@[simp] theorem setCounter_nn (t : Nat) (s : State) : (setCounter t s).nn = s.nn := by rw [setCounter]
@[simp] theorem setCounter_kk (t : Nat) (s : State) : (setCounter t s).kk = s.kk := by rw [setCounter]
@[simp] theorem setCounter_key (t : Nat) (s : State) : (setCounter t s).key = s.key := by rw [setCounter]
@[simp] theorem setCounter_salt (t : Nat) (s : State) : (setCounter t s).salt = s.salt := by rw [setCounter]
@[simp] theorem setCounter_pers (t : Nat) (s : State) : (setCounter t s).pers = s.pers := by rw [setCounter]
@[simp] theorem setCounter_B (t : Nat) (s : State) : (setCounter t s).B = s.B := by rw [setCounter]
@[simp] theorem setCounter_D (t : Nat) (s : State) : (setCounter t s).D = s.D := by rw [setCounter]
@[simp] theorem setCounter_inq (t : Nat) (s : State) : (setCounter t s).inq = s.inq := by rw [setCounter]
@[simp] theorem setCounter_phase (t : Nat) (s : State) : (setCounter t s).phase = s.phase := by rw [setCounter]
@[simp] theorem setCounter_pc (t : Nat) (s : State) : (setCounter t s).pc = s.pc := by rw [setCounter]
@[simp] theorem setCounter_status (t : Nat) (s : State) : (setCounter t s).status = s.status := by rw [setCounter]
@[simp] theorem setCounter_request (t : Nat) (s : State) : (setCounter t s).request = s.request := by rw [setCounter]
@[simp] theorem setCounter_pending (t : Nat) (s : State) : (setCounter t s).pending = s.pending := by rw [setCounter]
@[simp] theorem setCounter_resetPin (t : Nat) (s : State) : (setCounter t s).resetPin = s.resetPin := by rw [setCounter]
@[simp] theorem setCounter_response (t : Nat) (s : State) : (setCounter t s).response = s.response := by rw [setCounter]
@[simp] theorem setCounter_digestOut (t : Nat) (s : State) : (setCounter t s).digestOut = s.digestOut := by rw [setCounter]
@[simp] theorem setCounter_written (t : Nat) (s : State) : (setCounter t s).written = { s.written with t := true } := by rw [setCounter]
@[simp] theorem setCounter_draws (t : Nat) (s : State) : (setCounter t s).draws = s.draws := by rw [setCounter]

@[simp] theorem advanceCounter_v (inc : Nat) (s : State) : (advanceCounter inc s).v = s.v := by rw [advanceCounter, setCounter]
@[simp] theorem advanceCounter_h (inc : Nat) (s : State) : (advanceCounter inc s).h = s.h := by rw [advanceCounter, setCounter]
@[simp] theorem advanceCounter_m (inc : Nat) (s : State) : (advanceCounter inc s).m = s.m := by rw [advanceCounter, setCounter]
@[simp] theorem advanceCounter_t0 (inc : Nat) (s : State) : (advanceCounter inc s).t0 = BitVec.ofNat 32 (counter s + inc) := by rw [advanceCounter, setCounter]
@[simp] theorem advanceCounter_t1 (inc : Nat) (s : State) : (advanceCounter inc s).t1 = BitVec.ofNat 32 ((counter s + inc) / 2 ^ 32) := by rw [advanceCounter, setCounter]
@[simp] theorem advanceCounter_f0 (inc : Nat) (s : State) : (advanceCounter inc s).f0 = s.f0 := by rw [advanceCounter, setCounter]
@[simp] theorem advanceCounter_f1 (inc : Nat) (s : State) : (advanceCounter inc s).f1 = s.f1 := by rw [advanceCounter, setCounter]
@[simp] theorem advanceCounter_nn (inc : Nat) (s : State) : (advanceCounter inc s).nn = s.nn := by rw [advanceCounter, setCounter]
@[simp] theorem advanceCounter_kk (inc : Nat) (s : State) : (advanceCounter inc s).kk = s.kk := by rw [advanceCounter, setCounter]
@[simp] theorem advanceCounter_key (inc : Nat) (s : State) : (advanceCounter inc s).key = s.key := by rw [advanceCounter, setCounter]
@[simp] theorem advanceCounter_salt (inc : Nat) (s : State) : (advanceCounter inc s).salt = s.salt := by rw [advanceCounter, setCounter]
@[simp] theorem advanceCounter_pers (inc : Nat) (s : State) : (advanceCounter inc s).pers = s.pers := by rw [advanceCounter, setCounter]
@[simp] theorem advanceCounter_B (inc : Nat) (s : State) : (advanceCounter inc s).B = s.B := by rw [advanceCounter, setCounter]
@[simp] theorem advanceCounter_D (inc : Nat) (s : State) : (advanceCounter inc s).D = s.D := by rw [advanceCounter, setCounter]
@[simp] theorem advanceCounter_inq (inc : Nat) (s : State) : (advanceCounter inc s).inq = s.inq := by rw [advanceCounter, setCounter]
@[simp] theorem advanceCounter_phase (inc : Nat) (s : State) : (advanceCounter inc s).phase = s.phase := by rw [advanceCounter, setCounter]
@[simp] theorem advanceCounter_pc (inc : Nat) (s : State) : (advanceCounter inc s).pc = s.pc := by rw [advanceCounter, setCounter]
@[simp] theorem advanceCounter_status (inc : Nat) (s : State) : (advanceCounter inc s).status = s.status := by rw [advanceCounter, setCounter]
@[simp] theorem advanceCounter_request (inc : Nat) (s : State) : (advanceCounter inc s).request = s.request := by rw [advanceCounter, setCounter]
@[simp] theorem advanceCounter_pending (inc : Nat) (s : State) : (advanceCounter inc s).pending = s.pending := by rw [advanceCounter, setCounter]
@[simp] theorem advanceCounter_resetPin (inc : Nat) (s : State) : (advanceCounter inc s).resetPin = s.resetPin := by rw [advanceCounter, setCounter]
@[simp] theorem advanceCounter_response (inc : Nat) (s : State) : (advanceCounter inc s).response = s.response := by rw [advanceCounter, setCounter]
@[simp] theorem advanceCounter_digestOut (inc : Nat) (s : State) : (advanceCounter inc s).digestOut = s.digestOut := by rw [advanceCounter, setCounter]
@[simp] theorem advanceCounter_written (inc : Nat) (s : State) : (advanceCounter inc s).written = { s.written with t := true } := by rw [advanceCounter, setCounter]
@[simp] theorem advanceCounter_draws (inc : Nat) (s : State) : (advanceCounter inc s).draws = s.draws := by rw [advanceCounter, setCounter]

@[simp] theorem setLastBlock_v (b : Bool) (s : State) : (setLastBlock b s).v = s.v := by rw [setLastBlock]
@[simp] theorem setLastBlock_h (b : Bool) (s : State) : (setLastBlock b s).h = s.h := by rw [setLastBlock]
@[simp] theorem setLastBlock_m (b : Bool) (s : State) : (setLastBlock b s).m = s.m := by rw [setLastBlock]
@[simp] theorem setLastBlock_t0 (b : Bool) (s : State) : (setLastBlock b s).t0 = s.t0 := by rw [setLastBlock]
@[simp] theorem setLastBlock_t1 (b : Bool) (s : State) : (setLastBlock b s).t1 = s.t1 := by rw [setLastBlock]
@[simp] theorem setLastBlock_f0 (b : Bool) (s : State) : (setLastBlock b s).f0 = b := by rw [setLastBlock]
@[simp] theorem setLastBlock_f1 (b : Bool) (s : State) : (setLastBlock b s).f1 = s.f1 := by rw [setLastBlock]
@[simp] theorem setLastBlock_nn (b : Bool) (s : State) : (setLastBlock b s).nn = s.nn := by rw [setLastBlock]
@[simp] theorem setLastBlock_kk (b : Bool) (s : State) : (setLastBlock b s).kk = s.kk := by rw [setLastBlock]
@[simp] theorem setLastBlock_key (b : Bool) (s : State) : (setLastBlock b s).key = s.key := by rw [setLastBlock]
@[simp] theorem setLastBlock_salt (b : Bool) (s : State) : (setLastBlock b s).salt = s.salt := by rw [setLastBlock]
@[simp] theorem setLastBlock_pers (b : Bool) (s : State) : (setLastBlock b s).pers = s.pers := by rw [setLastBlock]
@[simp] theorem setLastBlock_B (b : Bool) (s : State) : (setLastBlock b s).B = s.B := by rw [setLastBlock]
@[simp] theorem setLastBlock_D (b : Bool) (s : State) : (setLastBlock b s).D = s.D := by rw [setLastBlock]
@[simp] theorem setLastBlock_inq (b : Bool) (s : State) : (setLastBlock b s).inq = s.inq := by rw [setLastBlock]
@[simp] theorem setLastBlock_phase (b : Bool) (s : State) : (setLastBlock b s).phase = s.phase := by rw [setLastBlock]
@[simp] theorem setLastBlock_pc (b : Bool) (s : State) : (setLastBlock b s).pc = s.pc := by rw [setLastBlock]
@[simp] theorem setLastBlock_status (b : Bool) (s : State) : (setLastBlock b s).status = s.status := by rw [setLastBlock]
@[simp] theorem setLastBlock_request (b : Bool) (s : State) : (setLastBlock b s).request = s.request := by rw [setLastBlock]
@[simp] theorem setLastBlock_pending (b : Bool) (s : State) : (setLastBlock b s).pending = s.pending := by rw [setLastBlock]
@[simp] theorem setLastBlock_resetPin (b : Bool) (s : State) : (setLastBlock b s).resetPin = s.resetPin := by rw [setLastBlock]
@[simp] theorem setLastBlock_response (b : Bool) (s : State) : (setLastBlock b s).response = s.response := by rw [setLastBlock]
@[simp] theorem setLastBlock_digestOut (b : Bool) (s : State) : (setLastBlock b s).digestOut = s.digestOut := by rw [setLastBlock]
@[simp] theorem setLastBlock_written (b : Bool) (s : State) : (setLastBlock b s).written = { s.written with f0 := true } := by rw [setLastBlock]
@[simp] theorem setLastBlock_draws (b : Bool) (s : State) : (setLastBlock b s).draws = s.draws := by rw [setLastBlock]

@[simp] theorem takeBlock_v (len : Nat) (s : State) : (takeBlock len s).v = s.v := by rw [takeBlock]
@[simp] theorem takeBlock_h (len : Nat) (s : State) : (takeBlock len s).h = s.h := by rw [takeBlock]
@[simp] theorem takeBlock_m (len : Nat) (s : State) : (takeBlock len s).m = loadMessage (fillBlock s.inq len) := by rw [takeBlock]
@[simp] theorem takeBlock_t0 (len : Nat) (s : State) : (takeBlock len s).t0 = s.t0 := by rw [takeBlock]
@[simp] theorem takeBlock_t1 (len : Nat) (s : State) : (takeBlock len s).t1 = s.t1 := by rw [takeBlock]
@[simp] theorem takeBlock_f0 (len : Nat) (s : State) : (takeBlock len s).f0 = s.f0 := by rw [takeBlock]
@[simp] theorem takeBlock_f1 (len : Nat) (s : State) : (takeBlock len s).f1 = s.f1 := by rw [takeBlock]
@[simp] theorem takeBlock_nn (len : Nat) (s : State) : (takeBlock len s).nn = s.nn := by rw [takeBlock]
@[simp] theorem takeBlock_kk (len : Nat) (s : State) : (takeBlock len s).kk = s.kk := by rw [takeBlock]
@[simp] theorem takeBlock_key (len : Nat) (s : State) : (takeBlock len s).key = s.key := by rw [takeBlock]
@[simp] theorem takeBlock_salt (len : Nat) (s : State) : (takeBlock len s).salt = s.salt := by rw [takeBlock]
@[simp] theorem takeBlock_pers (len : Nat) (s : State) : (takeBlock len s).pers = s.pers := by rw [takeBlock]
@[simp] theorem takeBlock_B (len : Nat) (s : State) : (takeBlock len s).B = fillBlock s.inq len := by rw [takeBlock]
@[simp] theorem takeBlock_D (len : Nat) (s : State) : (takeBlock len s).D = s.D := by rw [takeBlock]
@[simp] theorem takeBlock_inq (len : Nat) (s : State) : (takeBlock len s).inq = s.inq.drop len := by rw [takeBlock]
@[simp] theorem takeBlock_phase (len : Nat) (s : State) : (takeBlock len s).phase = s.phase := by rw [takeBlock]
@[simp] theorem takeBlock_pc (len : Nat) (s : State) : (takeBlock len s).pc = s.pc := by rw [takeBlock]
@[simp] theorem takeBlock_status (len : Nat) (s : State) : (takeBlock len s).status = s.status := by rw [takeBlock]
@[simp] theorem takeBlock_request (len : Nat) (s : State) : (takeBlock len s).request = s.request := by rw [takeBlock]
@[simp] theorem takeBlock_pending (len : Nat) (s : State) : (takeBlock len s).pending = s.pending := by rw [takeBlock]
@[simp] theorem takeBlock_resetPin (len : Nat) (s : State) : (takeBlock len s).resetPin = s.resetPin := by rw [takeBlock]
@[simp] theorem takeBlock_response (len : Nat) (s : State) : (takeBlock len s).response = s.response := by rw [takeBlock]
@[simp] theorem takeBlock_digestOut (len : Nat) (s : State) : (takeBlock len s).digestOut = s.digestOut := by rw [takeBlock]
@[simp] theorem takeBlock_written (len : Nat) (s : State) : (takeBlock len s).written = { s.written with m := true } := by rw [takeBlock]
@[simp] theorem takeBlock_draws (len : Nat) (s : State) : (takeBlock len s).draws = s.draws := by rw [takeBlock]

@[simp] theorem loadRequest_v (k l p : Nat) (s : State) : (loadRequest k l p s).v = s.v := by rw [loadRequest]
@[simp] theorem loadRequest_h (k l p : Nat) (s : State) : (loadRequest k l p s).h = s.h := by rw [loadRequest]
@[simp] theorem loadRequest_m (k l p : Nat) (s : State) : (loadRequest k l p s).m = s.m := by rw [loadRequest]
@[simp] theorem loadRequest_t0 (k l p : Nat) (s : State) : (loadRequest k l p s).t0 = s.t0 := by rw [loadRequest]
@[simp] theorem loadRequest_t1 (k l p : Nat) (s : State) : (loadRequest k l p s).t1 = s.t1 := by rw [loadRequest]
@[simp] theorem loadRequest_f0 (k l p : Nat) (s : State) : (loadRequest k l p s).f0 = s.f0 := by rw [loadRequest]
@[simp] theorem loadRequest_f1 (k l p : Nat) (s : State) : (loadRequest k l p s).f1 = s.f1 := by rw [loadRequest]
@[simp] theorem loadRequest_nn (k l p : Nat) (s : State) : (loadRequest k l p s).nn = s.nn := by rw [loadRequest]
@[simp] theorem loadRequest_kk (k l p : Nat) (s : State) : (loadRequest k l p s).kk = s.kk := by rw [loadRequest]
@[simp] theorem loadRequest_key (k l p : Nat) (s : State) : (loadRequest k l p s).key = zeroFill s.request.keyD k := by rw [loadRequest]
@[simp] theorem loadRequest_salt (k l p : Nat) (s : State) : (loadRequest k l p s).salt = zeroFill s.request.saltD l := by rw [loadRequest]
@[simp] theorem loadRequest_pers (k l p : Nat) (s : State) : (loadRequest k l p s).pers = zeroFill s.request.persD p := by rw [loadRequest]
@[simp] theorem loadRequest_B (k l p : Nat) (s : State) : (loadRequest k l p s).B = s.B := by rw [loadRequest]
@[simp] theorem loadRequest_D (k l p : Nat) (s : State) : (loadRequest k l p s).D = s.D := by rw [loadRequest]
@[simp] theorem loadRequest_inq (k l p : Nat) (s : State) : (loadRequest k l p s).inq = s.request.msg := by rw [loadRequest]
@[simp] theorem loadRequest_phase (k l p : Nat) (s : State) : (loadRequest k l p s).phase = s.phase := by rw [loadRequest]
@[simp] theorem loadRequest_pc (k l p : Nat) (s : State) : (loadRequest k l p s).pc = s.pc := by rw [loadRequest]
@[simp] theorem loadRequest_status (k l p : Nat) (s : State) : (loadRequest k l p s).status = s.status := by rw [loadRequest]
@[simp] theorem loadRequest_request (k l p : Nat) (s : State) : (loadRequest k l p s).request = s.request := by rw [loadRequest]
@[simp] theorem loadRequest_pending (k l p : Nat) (s : State) : (loadRequest k l p s).pending = s.pending := by rw [loadRequest]
@[simp] theorem loadRequest_resetPin (k l p : Nat) (s : State) : (loadRequest k l p s).resetPin = s.resetPin := by rw [loadRequest]
@[simp] theorem loadRequest_response (k l p : Nat) (s : State) : (loadRequest k l p s).response = s.response := by rw [loadRequest]
@[simp] theorem loadRequest_digestOut (k l p : Nat) (s : State) : (loadRequest k l p s).digestOut = s.digestOut := by rw [loadRequest]
@[simp] theorem loadRequest_written (k l p : Nat) (s : State) : (loadRequest k l p s).written = { s.written with key := true, salt := true, pers := true } := by rw [loadRequest]
@[simp] theorem loadRequest_draws (k l p : Nat) (s : State) : (loadRequest k l p s).draws = s.draws := by rw [loadRequest]

@[simp] theorem releaseWorking_v (s : State) : (releaseWorking s).v = deadWords 16 s.draws 0 := by rw [releaseWorking]
@[simp] theorem releaseWorking_h (s : State) : (releaseWorking s).h = s.h := by rw [releaseWorking]
@[simp] theorem releaseWorking_m (s : State) : (releaseWorking s).m = s.m := by rw [releaseWorking]
@[simp] theorem releaseWorking_t0 (s : State) : (releaseWorking s).t0 = s.t0 := by rw [releaseWorking]
@[simp] theorem releaseWorking_t1 (s : State) : (releaseWorking s).t1 = s.t1 := by rw [releaseWorking]
@[simp] theorem releaseWorking_f0 (s : State) : (releaseWorking s).f0 = s.f0 := by rw [releaseWorking]
@[simp] theorem releaseWorking_f1 (s : State) : (releaseWorking s).f1 = s.f1 := by rw [releaseWorking]
@[simp] theorem releaseWorking_nn (s : State) : (releaseWorking s).nn = s.nn := by rw [releaseWorking]
@[simp] theorem releaseWorking_kk (s : State) : (releaseWorking s).kk = s.kk := by rw [releaseWorking]
@[simp] theorem releaseWorking_key (s : State) : (releaseWorking s).key = s.key := by rw [releaseWorking]
@[simp] theorem releaseWorking_salt (s : State) : (releaseWorking s).salt = s.salt := by rw [releaseWorking]
@[simp] theorem releaseWorking_pers (s : State) : (releaseWorking s).pers = s.pers := by rw [releaseWorking]
@[simp] theorem releaseWorking_B (s : State) : (releaseWorking s).B = s.B := by rw [releaseWorking]
@[simp] theorem releaseWorking_D (s : State) : (releaseWorking s).D = s.D := by rw [releaseWorking]
@[simp] theorem releaseWorking_inq (s : State) : (releaseWorking s).inq = s.inq := by rw [releaseWorking]
@[simp] theorem releaseWorking_phase (s : State) : (releaseWorking s).phase = s.phase := by rw [releaseWorking]
@[simp] theorem releaseWorking_pc (s : State) : (releaseWorking s).pc = s.pc := by rw [releaseWorking]
@[simp] theorem releaseWorking_status (s : State) : (releaseWorking s).status = s.status := by rw [releaseWorking]
@[simp] theorem releaseWorking_request (s : State) : (releaseWorking s).request = s.request := by rw [releaseWorking]
@[simp] theorem releaseWorking_pending (s : State) : (releaseWorking s).pending = s.pending := by rw [releaseWorking]
@[simp] theorem releaseWorking_resetPin (s : State) : (releaseWorking s).resetPin = s.resetPin := by rw [releaseWorking]
@[simp] theorem releaseWorking_response (s : State) : (releaseWorking s).response = s.response := by rw [releaseWorking]
@[simp] theorem releaseWorking_digestOut (s : State) : (releaseWorking s).digestOut = s.digestOut := by rw [releaseWorking]
@[simp] theorem releaseWorking_written (s : State) : (releaseWorking s).written = s.written := by rw [releaseWorking]
@[simp] theorem releaseWorking_draws (s : State) : (releaseWorking s).draws = s.draws + 1 := by rw [releaseWorking]

@[simp] theorem releaseInvocation_v (s : State) : (releaseInvocation s).v = deadWords 16 s.draws 0 := by rw [releaseInvocation]
@[simp] theorem releaseInvocation_h (s : State) : (releaseInvocation s).h = deadWords 8 s.draws 16 := by rw [releaseInvocation]
@[simp] theorem releaseInvocation_m (s : State) : (releaseInvocation s).m = deadWords 16 s.draws 24 := by rw [releaseInvocation]
@[simp] theorem releaseInvocation_t0 (s : State) : (releaseInvocation s).t0 = Config.deadWord s.draws 40 := by rw [releaseInvocation]
@[simp] theorem releaseInvocation_t1 (s : State) : (releaseInvocation s).t1 = Config.deadWord s.draws 41 := by rw [releaseInvocation]
@[simp] theorem releaseInvocation_f0 (s : State) : (releaseInvocation s).f0 = Config.deadFlag s.draws := by rw [releaseInvocation]
@[simp] theorem releaseInvocation_f1 (s : State) : (releaseInvocation s).f1 = s.f1 := by rw [releaseInvocation]
@[simp] theorem releaseInvocation_nn (s : State) : (releaseInvocation s).nn = Config.deadByte s.draws 0 := by rw [releaseInvocation]
@[simp] theorem releaseInvocation_kk (s : State) : (releaseInvocation s).kk = Config.deadByte s.draws 1 := by rw [releaseInvocation]
@[simp] theorem releaseInvocation_key (s : State) : (releaseInvocation s).key = deadBytes 32 s.draws 2 := by rw [releaseInvocation]
@[simp] theorem releaseInvocation_salt (s : State) : (releaseInvocation s).salt = deadBytes 8 s.draws 34 := by rw [releaseInvocation]
@[simp] theorem releaseInvocation_pers (s : State) : (releaseInvocation s).pers = deadBytes 8 s.draws 42 := by rw [releaseInvocation]
@[simp] theorem releaseInvocation_B (s : State) : (releaseInvocation s).B = deadBytes 64 s.draws 50 := by rw [releaseInvocation]
@[simp] theorem releaseInvocation_D (s : State) : (releaseInvocation s).D = s.D := by rw [releaseInvocation]
@[simp] theorem releaseInvocation_inq (s : State) : (releaseInvocation s).inq = s.inq := by rw [releaseInvocation]
@[simp] theorem releaseInvocation_phase (s : State) : (releaseInvocation s).phase = s.phase := by rw [releaseInvocation]
@[simp] theorem releaseInvocation_pc (s : State) : (releaseInvocation s).pc = s.pc := by rw [releaseInvocation]
@[simp] theorem releaseInvocation_status (s : State) : (releaseInvocation s).status = s.status := by rw [releaseInvocation]
@[simp] theorem releaseInvocation_request (s : State) : (releaseInvocation s).request = s.request := by rw [releaseInvocation]
@[simp] theorem releaseInvocation_pending (s : State) : (releaseInvocation s).pending = s.pending := by rw [releaseInvocation]
@[simp] theorem releaseInvocation_resetPin (s : State) : (releaseInvocation s).resetPin = s.resetPin := by rw [releaseInvocation]
@[simp] theorem releaseInvocation_response (s : State) : (releaseInvocation s).response = s.response := by rw [releaseInvocation]
@[simp] theorem releaseInvocation_digestOut (s : State) : (releaseInvocation s).digestOut = s.digestOut := by rw [releaseInvocation]
@[simp] theorem releaseInvocation_written (s : State) : (releaseInvocation s).written = s.written := by rw [releaseInvocation]
@[simp] theorem releaseInvocation_draws (s : State) : (releaseInvocation s).draws = s.draws + 1 := by rw [releaseInvocation]

@[simp] theorem resetCore_v (s : State) : (resetCore s).v = deadWords 16 s.draws 0 := by simp only [resetCore, releaseInvocation]
@[simp] theorem resetCore_h (s : State) : (resetCore s).h = deadWords 8 s.draws 16 := by simp only [resetCore, releaseInvocation]
@[simp] theorem resetCore_m (s : State) : (resetCore s).m = deadWords 16 s.draws 24 := by simp only [resetCore, releaseInvocation]
@[simp] theorem resetCore_t0 (s : State) : (resetCore s).t0 = Config.deadWord s.draws 40 := by simp only [resetCore, releaseInvocation]
@[simp] theorem resetCore_t1 (s : State) : (resetCore s).t1 = Config.deadWord s.draws 41 := by simp only [resetCore, releaseInvocation]
@[simp] theorem resetCore_f0 (s : State) : (resetCore s).f0 = Config.deadFlag s.draws := by simp only [resetCore, releaseInvocation]
@[simp] theorem resetCore_f1 (s : State) : (resetCore s).f1 = s.f1 := by simp only [resetCore, releaseInvocation]
@[simp] theorem resetCore_nn (s : State) : (resetCore s).nn = Config.deadByte s.draws 0 := by simp only [resetCore, releaseInvocation]
@[simp] theorem resetCore_kk (s : State) : (resetCore s).kk = Config.deadByte s.draws 1 := by simp only [resetCore, releaseInvocation]
@[simp] theorem resetCore_key (s : State) : (resetCore s).key = deadBytes 32 s.draws 2 := by simp only [resetCore, releaseInvocation]
@[simp] theorem resetCore_salt (s : State) : (resetCore s).salt = deadBytes 8 s.draws 34 := by simp only [resetCore, releaseInvocation]
@[simp] theorem resetCore_pers (s : State) : (resetCore s).pers = deadBytes 8 s.draws 42 := by simp only [resetCore, releaseInvocation]
@[simp] theorem resetCore_B (s : State) : (resetCore s).B = deadBytes 64 s.draws 50 := by simp only [resetCore, releaseInvocation]
@[simp] theorem resetCore_D (s : State) : (resetCore s).D = deadBytes 32 s.draws 114 := by simp only [resetCore, releaseInvocation]
@[simp] theorem resetCore_inq (s : State) : (resetCore s).inq = [] := by simp only [resetCore, releaseInvocation]
@[simp] theorem resetCore_phase (s : State) : (resetCore s).phase = .idle := by simp only [resetCore, releaseInvocation]
@[simp] theorem resetCore_pc (s : State) : (resetCore s).pc = 0 := by simp only [resetCore, releaseInvocation]
@[simp] theorem resetCore_status (s : State) : (resetCore s).status = 0 := by simp only [resetCore, releaseInvocation]
@[simp] theorem resetCore_request (s : State) : (resetCore s).request = s.request := by simp only [resetCore, releaseInvocation]
@[simp] theorem resetCore_pending (s : State) : (resetCore s).pending = false := by simp only [resetCore, releaseInvocation]
@[simp] theorem resetCore_resetPin (s : State) : (resetCore s).resetPin = false := by simp only [resetCore, releaseInvocation]
@[simp] theorem resetCore_response (s : State) : (resetCore s).response = none := by simp only [resetCore, releaseInvocation]
@[simp] theorem resetCore_digestOut (s : State) : (resetCore s).digestOut = none := by simp only [resetCore, releaseInvocation]
@[simp] theorem resetCore_written (s : State) : (resetCore s).written = Written.none := by simp only [resetCore, releaseInvocation]
@[simp] theorem resetCore_draws (s : State) : (resetCore s).draws = s.draws + 1 := by simp only [resetCore, releaseInvocation]

@[simp] theorem compress_m (s : State) : (compress s).m = s.m := by rw [compress]
@[simp] theorem compress_t0 (s : State) : (compress s).t0 = s.t0 := by rw [compress]
@[simp] theorem compress_t1 (s : State) : (compress s).t1 = s.t1 := by rw [compress]
@[simp] theorem compress_f0 (s : State) : (compress s).f0 = s.f0 := by rw [compress]
@[simp] theorem compress_f1 (s : State) : (compress s).f1 = s.f1 := by rw [compress]
@[simp] theorem compress_nn (s : State) : (compress s).nn = s.nn := by rw [compress]
@[simp] theorem compress_kk (s : State) : (compress s).kk = s.kk := by rw [compress]
@[simp] theorem compress_key (s : State) : (compress s).key = s.key := by rw [compress]
@[simp] theorem compress_salt (s : State) : (compress s).salt = s.salt := by rw [compress]
@[simp] theorem compress_pers (s : State) : (compress s).pers = s.pers := by rw [compress]
@[simp] theorem compress_B (s : State) : (compress s).B = s.B := by rw [compress]
@[simp] theorem compress_D (s : State) : (compress s).D = s.D := by rw [compress]
@[simp] theorem compress_inq (s : State) : (compress s).inq = s.inq := by rw [compress]
@[simp] theorem compress_phase (s : State) : (compress s).phase = s.phase := by rw [compress]
@[simp] theorem compress_pc (s : State) : (compress s).pc = 0 := by rw [compress]
@[simp] theorem compress_status (s : State) : (compress s).status = s.status := by rw [compress]
@[simp] theorem compress_request (s : State) : (compress s).request = s.request := by rw [compress]
@[simp] theorem compress_pending (s : State) : (compress s).pending = s.pending := by rw [compress]
@[simp] theorem compress_resetPin (s : State) : (compress s).resetPin = s.resetPin := by rw [compress]
@[simp] theorem compress_response (s : State) : (compress s).response = s.response := by rw [compress]
@[simp] theorem compress_digestOut (s : State) : (compress s).digestOut = s.digestOut := by rw [compress]

@[simp] theorem mix_v (a b c d x y : Index) (s : State) : (mix a b c d x y s).v = mixVector s.v a b c d (getReg s.m x) (getReg s.m y) := by rw [mix]
@[simp] theorem mix_h (a b c d x y : Index) (s : State) : (mix a b c d x y s).h = s.h := by rw [mix]
@[simp] theorem mix_m (a b c d x y : Index) (s : State) : (mix a b c d x y s).m = s.m := by rw [mix]
@[simp] theorem mix_t0 (a b c d x y : Index) (s : State) : (mix a b c d x y s).t0 = s.t0 := by rw [mix]
@[simp] theorem mix_t1 (a b c d x y : Index) (s : State) : (mix a b c d x y s).t1 = s.t1 := by rw [mix]
@[simp] theorem mix_f0 (a b c d x y : Index) (s : State) : (mix a b c d x y s).f0 = s.f0 := by rw [mix]
@[simp] theorem mix_f1 (a b c d x y : Index) (s : State) : (mix a b c d x y s).f1 = s.f1 := by rw [mix]
@[simp] theorem mix_nn (a b c d x y : Index) (s : State) : (mix a b c d x y s).nn = s.nn := by rw [mix]
@[simp] theorem mix_kk (a b c d x y : Index) (s : State) : (mix a b c d x y s).kk = s.kk := by rw [mix]
@[simp] theorem mix_key (a b c d x y : Index) (s : State) : (mix a b c d x y s).key = s.key := by rw [mix]
@[simp] theorem mix_salt (a b c d x y : Index) (s : State) : (mix a b c d x y s).salt = s.salt := by rw [mix]
@[simp] theorem mix_pers (a b c d x y : Index) (s : State) : (mix a b c d x y s).pers = s.pers := by rw [mix]
@[simp] theorem mix_B (a b c d x y : Index) (s : State) : (mix a b c d x y s).B = s.B := by rw [mix]
@[simp] theorem mix_D (a b c d x y : Index) (s : State) : (mix a b c d x y s).D = s.D := by rw [mix]
@[simp] theorem mix_inq (a b c d x y : Index) (s : State) : (mix a b c d x y s).inq = s.inq := by rw [mix]
@[simp] theorem mix_phase (a b c d x y : Index) (s : State) : (mix a b c d x y s).phase = s.phase := by rw [mix]
@[simp] theorem mix_pc (a b c d x y : Index) (s : State) : (mix a b c d x y s).pc = s.pc := by rw [mix]
@[simp] theorem mix_status (a b c d x y : Index) (s : State) : (mix a b c d x y s).status = s.status := by rw [mix]
@[simp] theorem mix_request (a b c d x y : Index) (s : State) : (mix a b c d x y s).request = s.request := by rw [mix]
@[simp] theorem mix_pending (a b c d x y : Index) (s : State) : (mix a b c d x y s).pending = s.pending := by rw [mix]
@[simp] theorem mix_resetPin (a b c d x y : Index) (s : State) : (mix a b c d x y s).resetPin = s.resetPin := by rw [mix]
@[simp] theorem mix_response (a b c d x y : Index) (s : State) : (mix a b c d x y s).response = s.response := by rw [mix]
@[simp] theorem mix_digestOut (a b c d x y : Index) (s : State) : (mix a b c d x y s).digestOut = s.digestOut := by rw [mix]
@[simp] theorem mix_written (a b c d x y : Index) (s : State) : (mix a b c d x y s).written = s.written := by rw [mix]
@[simp] theorem mix_draws (a b c d x y : Index) (s : State) : (mix a b c d x y s).draws = s.draws := by rw [mix]

@[simp] theorem vinit_v (s : State) : (vinit s).v = workingVector s.h s.t0 s.t1 s.f0 := by rw [vinit]
@[simp] theorem vinit_h (s : State) : (vinit s).h = s.h := by rw [vinit]
@[simp] theorem vinit_m (s : State) : (vinit s).m = s.m := by rw [vinit]
@[simp] theorem vinit_t0 (s : State) : (vinit s).t0 = s.t0 := by rw [vinit]
@[simp] theorem vinit_t1 (s : State) : (vinit s).t1 = s.t1 := by rw [vinit]
@[simp] theorem vinit_f0 (s : State) : (vinit s).f0 = s.f0 := by rw [vinit]
@[simp] theorem vinit_f1 (s : State) : (vinit s).f1 = s.f1 := by rw [vinit]
@[simp] theorem vinit_nn (s : State) : (vinit s).nn = s.nn := by rw [vinit]
@[simp] theorem vinit_kk (s : State) : (vinit s).kk = s.kk := by rw [vinit]
@[simp] theorem vinit_key (s : State) : (vinit s).key = s.key := by rw [vinit]
@[simp] theorem vinit_salt (s : State) : (vinit s).salt = s.salt := by rw [vinit]
@[simp] theorem vinit_pers (s : State) : (vinit s).pers = s.pers := by rw [vinit]
@[simp] theorem vinit_B (s : State) : (vinit s).B = s.B := by rw [vinit]
@[simp] theorem vinit_D (s : State) : (vinit s).D = s.D := by rw [vinit]
@[simp] theorem vinit_inq (s : State) : (vinit s).inq = s.inq := by rw [vinit]
@[simp] theorem vinit_phase (s : State) : (vinit s).phase = s.phase := by rw [vinit]
@[simp] theorem vinit_pc (s : State) : (vinit s).pc = s.pc := by rw [vinit]
@[simp] theorem vinit_status (s : State) : (vinit s).status = s.status := by rw [vinit]
@[simp] theorem vinit_request (s : State) : (vinit s).request = s.request := by rw [vinit]
@[simp] theorem vinit_pending (s : State) : (vinit s).pending = s.pending := by rw [vinit]
@[simp] theorem vinit_resetPin (s : State) : (vinit s).resetPin = s.resetPin := by rw [vinit]
@[simp] theorem vinit_response (s : State) : (vinit s).response = s.response := by rw [vinit]
@[simp] theorem vinit_digestOut (s : State) : (vinit s).digestOut = s.digestOut := by rw [vinit]
@[simp] theorem vinit_written (s : State) : (vinit s).written = { s.written with v := true } := by rw [vinit]
@[simp] theorem vinit_draws (s : State) : (vinit s).draws = s.draws := by rw [vinit]

@[simp] theorem fold_v (s : State) : (fold s).v = deadWords 16 s.draws 0 := by simp only [fold, releaseWorking]
@[simp] theorem fold_h (s : State) : (fold s).h = foldWords s.h s.v := by simp only [fold, releaseWorking]
@[simp] theorem fold_m (s : State) : (fold s).m = s.m := by simp only [fold, releaseWorking]
@[simp] theorem fold_t0 (s : State) : (fold s).t0 = s.t0 := by simp only [fold, releaseWorking]
@[simp] theorem fold_t1 (s : State) : (fold s).t1 = s.t1 := by simp only [fold, releaseWorking]
@[simp] theorem fold_f0 (s : State) : (fold s).f0 = s.f0 := by simp only [fold, releaseWorking]
@[simp] theorem fold_f1 (s : State) : (fold s).f1 = s.f1 := by simp only [fold, releaseWorking]
@[simp] theorem fold_nn (s : State) : (fold s).nn = s.nn := by simp only [fold, releaseWorking]
@[simp] theorem fold_kk (s : State) : (fold s).kk = s.kk := by simp only [fold, releaseWorking]
@[simp] theorem fold_key (s : State) : (fold s).key = s.key := by simp only [fold, releaseWorking]
@[simp] theorem fold_salt (s : State) : (fold s).salt = s.salt := by simp only [fold, releaseWorking]
@[simp] theorem fold_pers (s : State) : (fold s).pers = s.pers := by simp only [fold, releaseWorking]
@[simp] theorem fold_B (s : State) : (fold s).B = s.B := by simp only [fold, releaseWorking]
@[simp] theorem fold_D (s : State) : (fold s).D = s.D := by simp only [fold, releaseWorking]
@[simp] theorem fold_inq (s : State) : (fold s).inq = s.inq := by simp only [fold, releaseWorking]
@[simp] theorem fold_phase (s : State) : (fold s).phase = s.phase := by simp only [fold, releaseWorking]
@[simp] theorem fold_pc (s : State) : (fold s).pc = s.pc := by simp only [fold, releaseWorking]
@[simp] theorem fold_status (s : State) : (fold s).status = s.status := by simp only [fold, releaseWorking]
@[simp] theorem fold_request (s : State) : (fold s).request = s.request := by simp only [fold, releaseWorking]
@[simp] theorem fold_pending (s : State) : (fold s).pending = s.pending := by simp only [fold, releaseWorking]
@[simp] theorem fold_resetPin (s : State) : (fold s).resetPin = s.resetPin := by simp only [fold, releaseWorking]
@[simp] theorem fold_response (s : State) : (fold s).response = s.response := by simp only [fold, releaseWorking]
@[simp] theorem fold_digestOut (s : State) : (fold s).digestOut = s.digestOut := by simp only [fold, releaseWorking]
@[simp] theorem fold_written (s : State) : (fold s).written = s.written := by simp only [fold, releaseWorking]
@[simp] theorem fold_draws (s : State) : (fold s).draws = s.draws + 1 := by simp only [fold, releaseWorking]

end Sys2Proof.Machine
end

