-- ==== Sys2Proof/Laws/Ops.lean ====
section
/-! SUPPORT. What the shared operations do: results and exceptions, register access, the byte buffers, the counter. -/

namespace Sys2Proof.Machine

/-! ### Results -/

@[simp] theorem andThen_done (s : State) (k : State → Result) : (Result.done s).andThen k = k s := rfl
@[simp] theorem andThen_raised (c : Cause) (s : State) (k : State → Result) :
    (Result.raised c s).andThen k = .raised c s := rfl
@[simp] theorem andThen_refused (r : Refusal) (k : State → Result) : (Result.refused r).andThen k = .refused r := rfl

theorem andThen_assoc (r : Result) (k l : State → Result) :
    (r.andThen k).andThen l = r.andThen fun s => (k s).andThen l := by cases r <;> rfl

/-- The sequence completes exactly when both parts do. -/
theorem andThen_eq_done {r : Result} {k : State → Result} {t : State} :
    r.andThen k = .done t ↔ ∃ s, r = .done s ∧ k s = .done t := by
  cases r <;> simp

@[simp] theorem conclude_done (s : State) : (Result.done s).conclude = .next s := rfl
@[simp] theorem conclude_raised (c : Cause) (s : State) : (Result.raised c s).conclude = .next (takeException c s) := rfl
@[simp] theorem conclude_refused (r : Refusal) : (Result.refused r).conclude = .refused r := rfl

/-- A control word answers a next state when it is done, or by the exception it raised. -/
theorem conclude_eq_next {r : Result} {t : State} :
    r.conclude = .next t ↔ r = .done t ∨ ∃ c s, r = .raised c s ∧ t = takeException c s := by
  cases r <;> simp [Result.conclude, eq_comm]

theorem code_toNat_le (c : Cause) : c.code.toNat ≤ 6 := by cases c <;> decide

theorem code_toNat_pos (c : Cause) : 1 ≤ c.code.toNat := by cases c <;> decide

/-! ### Registers by index -/

theorem getReg_setReg_self (file : Vector Word 16) (i : Index) (x : Word) : getReg (setReg file i x) i = x := by
  simp [getReg, setReg]

theorem getReg_setReg_ne (file : Vector Word 16) {i j : Index} (x : Word) (h : i ≠ j) :
    getReg (setReg file i x) j = getReg file j := by
  simp only [getReg, setReg]
  exact Vector.getElem_set_ne _ _ (by simpa [BitVec.toNat_inj] using h)

theorem setReg_comm (file : Vector Word 16) {i j : Index} (x y : Word) (h : i ≠ j) :
    setReg (setReg file i x) j y = setReg (setReg file j y) i x := by
  simp only [setReg]
  exact Vector.set_comm _ _ (by simpa [BitVec.toNat_inj] using h)

theorem setReg_setReg (file : Vector Word 16) (i : Index) (x y : Word) :
    setReg (setReg file i x) i y = setReg file i y := by
  simp [setReg]

/-- Two register files are equal when every register is. -/
theorem ext_getReg {u w : Vector Word 16} (h : ∀ i : Index, getReg u i = getReg w i) : u = w := by
  refine Vector.ext fun k hk => ?_
  have := h (BitVec.ofNat 4 k)
  simpa [getReg, Nat.mod_eq_of_lt hk] using this

/-- The index check as a proposition. -/
theorem distinctIndices_iff (a b c d : Index) :
    distinctIndices a b c d = true ↔ a ≠ b ∧ a ≠ c ∧ a ≠ d ∧ b ≠ c ∧ b ≠ d ∧ c ≠ d := by
  simp [distinctIndices, and_assoc]

/-! ### The byte buffers -/

theorem memRead_word (B : Vector Byte 64) (i : Fin 16) : memRead B (4 * i.val) 4 = some (blockWord B i) := by
  have : 4 * i.val ≤ 60 := by omega
  simp [memRead, this]

theorem fillBlock_get (inq : List Byte) (len : Nat) (j : Nat) (hj : j < 64) :
    (fillBlock inq len)[j] = if j < len then inq.getD j 0 else 0 := by
  simp [fillBlock]

theorem loadMessage_get (B : Vector Byte 64) (i : Nat) (hi : i < 16) : (loadMessage B)[i] = blockWord B ⟨i, hi⟩ := by
  simp [loadMessage]

theorem putWord_get (D : Vector Byte 32) (i : Fin 8) (e : Word) (p : Nat) (hp : p < 32) :
    (putWord D i e)[p] = if 4 * i.val ≤ p ∧ p < 4 * i.val + 4 then byteOf e (p - 4 * i.val) else D[p] := by
  simp only [putWord, Vector.getElem_set]
  split_ifs <;> first | rfl | omega | (congr 1; omega)

/-- Byte `p` of the serialized state (R151). -/
theorem serialize_get (h : Vector Word 8) (D : Vector Byte 32) (p : Nat) (hp : p < 32) :
    (serialize h D)[p] = byteOf (h[p / 4]) (p % 4) := by
  simp only [serialize, putWord_get]
  have : p < 32 := hp
  interval_cases p <;> rfl

theorem keyBlock_length (key : Vector Byte 32) {k : Nat} (hk : k ≤ 32) : (keyBlock key k).length = 64 := by
  simp [keyBlock]; omega

/-! ### The counter -/

theorem counter_lt (s : State) : counter s < 2 ^ 64 := by
  have := s.t0.isLt; have := s.t1.isLt; simp only [counter]; omega

/-- Setting the counter to a 64-bit value makes it that value (R13). -/
theorem counter_setCounter {t : Nat} (ht : t < 2 ^ 64) (s : State) : counter (setCounter t s) = t := by
  simp only [counter, setCounter_t0, setCounter_t1, BitVec.toNat_ofNat]; omega

theorem counter_advanceCounter {inc : Nat} {s : State} (h : counter s + inc < 2 ^ 64) :
    counter (advanceCounter inc s) = counter s + inc := counter_setCounter h s

/-- The counter depends on its two words only. -/
theorem counter_congr {s t : State} (h0 : s.t0 = t.t0) (h1 : s.t1 = t.t1) : counter s = counter t := by
  simp [counter, h0, h1]

@[simp] theorem counter_takeBlock (len : Nat) (s : State) : counter (takeBlock len s) = counter s := by
  simp [counter]
@[simp] theorem counter_compress (s : State) : counter (compress s) = counter s := by
  simp [counter]
@[simp] theorem counter_setLastBlock (b : Bool) (s : State) : counter (setLastBlock b s) = counter s := by
  simp [counter]

theorem counterPasses_iff (inc : Nat) (s : State) : counterPasses inc s = true ↔ 2 ^ 64 ≤ counter s + inc := by
  simp [counterPasses]

end Sys2Proof.Machine
end

