-- ==== Sys2Proof/Laws/Compression.lean ====
section
/-! SUPPORT. The sequencer's run is the list of the microprogram's words, F keeps all it does not write, and a working-vector step touches `v` alone. -/

namespace Sys2Proof.Machine

/-! ### One microprogram word -/

/-- A word's effect does not depend on the sequencer's position. -/
theorem runMicro_pc (op : MicroOp) (s : State) (p : BitVec 7) :
    runMicro op { s with pc := p } = { runMicro op s with pc := p } := by
  cases op <;> simp only [runMicro, vinit, mix, fold, releaseWorking]

/-- What one word may write. -/
theorem runMicro_frame (op : MicroOp) (s : State) :
    runMicro op s = { s with v := (runMicro op s).v, h := (runMicro op s).h, written := (runMicro op s).written,
                             draws := (runMicro op s).draws } := by
  cases op <;> simp only [runMicro, vinit, mix, fold, releaseWorking]

theorem runMicro_g (a b c d x y : Index) (s : State) : runMicro (.g a b c d x y) s = mix a b c d x y s := rfl

/-! ### The run of a list of words -/

/-- The words of a list, one after another. -/
def runOps (ops : List MicroOp) (s : State) : State := ops.foldl (fun s op => runMicro op s) s

@[simp] theorem runOps_nil (s : State) : runOps [] s = s := rfl
@[simp] theorem runOps_cons (op : MicroOp) (ops : List MicroOp) (s : State) :
    runOps (op :: ops) s = runOps ops (runMicro op s) := rfl
theorem runOps_append (xs ys : List MicroOp) (s : State) : runOps (xs ++ ys) s = runOps ys (runOps xs s) := by
  simp [runOps]

theorem runOps_pc (ops : List MicroOp) (s : State) (p : BitVec 7) :
    runOps ops { s with pc := p } = { runOps ops s with pc := p } := by
  induction ops generalizing s with
  | nil => rfl
  | cons op ops ih => rw [runOps_cons, runOps_cons, runMicro_pc, ih]

theorem runOps_frame (ops : List MicroOp) (s : State) :
    runOps ops s = { s with v := (runOps ops s).v, h := (runOps ops s).h, written := (runOps ops s).written,
                            draws := (runOps ops s).draws } := by
  induction ops generalizing s with
  | nil => rfl
  | cons op ops ih =>
    rw [runOps_cons, ih (runMicro op s), runMicro_frame op s]

/-- One sequencer step before word 81. -/
theorem microStep_from (j : Nat) (s : State) (h : j < 81) :
    microStep { s with pc := BitVec.ofNat 7 j } = { runMicro (urom j) s with pc := BitVec.ofNat 7 (j + 1) } := by
  have hj : (BitVec.ofNat 7 j).toNat = j := by simp; omega
  have hne : BitVec.ofNat 7 j ≠ 81 := fun e => by
    have := congrArg BitVec.toNat e
    rw [hj, show (81 : BitVec 7).toNat = 81 from rfl] at this
    omega
  have hp : BitVec.ofNat 7 (j + 1) = BitVec.ofNat 7 j + 1 := BitVec.ofNat_add ..
  simp only [microStep, nextPosition, hne, if_false, hj, runMicro_pc, hp]

/-- The sequencer step at word 81: the position is 0 again (R21). -/
theorem microStep_last (s : State) : microStep { s with pc := 81 } = { runMicro (urom 81) s with pc := 0 } := by
  have hj : (81 : BitVec 7).toNat = 81 := rfl
  simp only [microStep, nextPosition, if_true, hj, runMicro_pc]

/-- `k` sequencer steps from position `j` run the `k` words that stand there (R96). -/
theorem microRun_from (k j : Nat) (s : State) (h : j + k ≤ 81) :
    microRun k { s with pc := BitVec.ofNat 7 j } =
      { runOps ((List.range' j k).map urom) s with pc := BitVec.ofNat 7 (j + k) } := by
  induction k generalizing j s with
  | zero => simp [microRun]
  | succ k ih =>
    rw [microRun, microStep_from j s (by omega), ih (j + 1) _ (by omega), List.range'_succ, List.map_cons, runOps_cons,
      show j + 1 + k = j + (k + 1) by omega]

theorem microRun_add (k l : Nat) (s : State) : microRun (k + l) s = microRun l (microRun k s) := by
  induction k generalizing s with
  | zero => rw [Nat.zero_add, microRun]
  | succ k ih => rw [show k + 1 + l = (k + l) + 1 by omega, microRun, ih, microRun]

/-! ### The microprogram -/

/-- The microprogram as R94 writes it: VINIT, ten rounds of eight steps, FOLD. -/
def microOps : List MicroOp :=
  [.vinit] ++ ((List.finRange 10).flatMap fun r => (List.finRange 8).map (gStep r)) ++ [.fold]

theorem urom_eq_microOps : (List.range' 0 82).map urom = microOps := by decide +kernel

theorem compress_run (s : State) : microRun 82 { s with pc := 0 } = { runOps microOps s with pc := 0 } := by
  have e := microRun_from 81 0 s (by omega)
  rw [show (82 : Nat) = 81 + 1 from rfl, microRun_add, show (0 : BitVec 7) = BitVec.ofNat 7 0 from rfl, e,
    ← urom_eq_microOps, show (82 : Nat) = 81 + 1 from rfl, List.range'_concat, List.map_append, runOps_append]
  exact microStep_last _

/-- What F may write; everything else is as before (R95). -/
theorem compress_frame (s : State) : compress s =
    { s with v := (compress s).v, h := (compress s).h, pc := 0, written := (compress s).written,
             draws := (compress s).draws } := by
  simp only [compress]

/-- F is the sequencer's run of the microprogram and nothing else (R94, R96). -/
theorem compress_eq_run (s : State) : compress s = microRun 82 { s with pc := 0 } := by
  rw [compress_run, runOps_frame]
  simp only [compress, compress_run]

/-- F is the words of R94 in order. -/
theorem compress_eq_ops (s : State) : compress s = { runOps microOps s with pc := 0 } := by
  rw [compress_eq_run, compress_run]

/-! ### Rounds -/

theorem roundSteps_eq_runOps (r : Fin 10) (s : State) :
    roundSteps r s = runOps ((List.finRange 8).map (gStep r)) s := rfl

/-- What a list of G words does: `v` alone changes. -/
theorem runOps_g_frame (ops : List MicroOp) (s : State) (h : ∀ op ∈ ops, ∃ a b c d x y, op = .g a b c d x y) :
    runOps ops s = { s with v := (runOps ops s).v } := by
  induction ops generalizing s with
  | nil => rfl
  | cons op ops ih =>
    obtain ⟨a, b, c, d, x, y, rfl⟩ := h op (by simp)
    rw [runOps_cons, ih _ fun op' h' => h op' (by simp [h']), runMicro_g]
    simp only [mix]

theorem runMicro_g_isStep (r : Fin 10) (op : MicroOp) (h : op ∈ (List.finRange 8).map (gStep r)) :
    ∃ a b c d x y, op = .g a b c d x y := by
  obtain ⟨i, -, rfl⟩ := List.mem_map.1 h
  exact ⟨_, _, _, _, _, _, rfl⟩

/-- A round writes `v` alone (R92). -/
theorem roundSteps_frame (r : Fin 10) (s : State) : roundSteps r s = { s with v := (roundSteps r s).v } := by
  rw [roundSteps_eq_runOps]
  exact runOps_g_frame _ _ (runMicro_g_isStep r)

/-- The ten rounds in order. -/
def allRounds (s : State) : State := (List.finRange 10).foldl (fun s r => roundSteps r s) s

theorem runOps_flatMap (rs : List (Fin 10)) (s : State) :
    runOps (rs.flatMap fun r => (List.finRange 8).map (gStep r)) s = rs.foldl (fun s r => roundSteps r s) s := by
  induction rs generalizing s with
  | nil => rfl
  | cons r rs ih => rw [List.flatMap_cons, runOps_append, ← roundSteps_eq_runOps, ih, List.foldl_cons]

/-- F is VINIT, the ten rounds, FOLD (R94). -/
theorem compress_eq_rounds (s : State) : compress s = { fold (allRounds (vinit s)) with pc := 0 } := by
  rw [compress_eq_ops, microOps, runOps_append, runOps_append, runOps_flatMap]
  rfl

theorem foldl_rounds_frame (rs : List (Fin 10)) (s : State) :
    rs.foldl (fun s r => roundSteps r s) s = { s with v := (rs.foldl (fun s r => roundSteps r s) s).v } := by
  induction rs generalizing s with
  | nil => rfl
  | cons r rs ih =>
    rw [List.foldl_cons, ih, roundSteps_frame]

theorem allRounds_frame (s : State) : allRounds s = { s with v := (allRounds s).v } := foldl_rounds_frame _ s

@[simp] theorem compress_written (s : State) : (compress s).written = { s.written with v := true } := by
  rw [compress_eq_rounds, allRounds_frame]
  simp

@[simp] theorem compress_draws (s : State) : (compress s).draws = s.draws + 1 := by
  rw [compress_eq_rounds, allRounds_frame]
  simp

/-- The state words after F: both halves of the working vector the rounds left, XORed into `h` (R93, R94). -/
theorem compress_h (s : State) : (compress s).h = foldWords s.h (allRounds (vinit s)).v := by
  rw [compress_eq_rounds]
  simp only [fold_h]
  rw [allRounds_frame]
  simp

end Sys2Proof.Machine
end

