-- ==== Sys2Proof/Laws/Decode.lean ====
section
/-! SUPPORT. The decoder and the encoder in numbers: each row's test as a quotient, each field as a remainder, each encoding as a sum. -/

namespace Sys2Proof

/-- Keeping the bits at and above `k`. -/
theorem and_top_bits (x k : Nat) (hk : k ≤ 32) (hx : x < 2 ^ 32) : x &&& (2 ^ 32 - 2 ^ k) = x / 2 ^ k * 2 ^ k := by
  have hm : 2 ^ 32 - 2 ^ k = (2 ^ (32 - k) - 1) * 2 ^ k := by
    rw [Nat.sub_mul, ← Nat.pow_add, Nat.sub_add_cancel hk, Nat.one_mul]
  rw [hm]
  refine Nat.eq_of_testBit_eq fun i => ?_
  rw [Nat.testBit_and, Nat.testBit_mul_two_pow, Nat.testBit_mul_two_pow, Nat.testBit_two_pow_sub_one, Nat.testBit_div_two_pow]
  by_cases hi : k ≤ i
  · by_cases h32 : i < 32
    · simp [hi, show i - k < 32 - k by omega]
    · have : x.testBit i = false := Nat.testBit_lt_two_pow (Nat.lt_of_lt_of_le hx (Nat.pow_le_pow_right (by omega) (by omega)))
      simp [this, hi]
  · simp [hi]

/-- A row whose mask keeps the bits at and above `k` tests the quotient by `2^k`. -/
theorem selects_iff (row : OpcodeRow) (w : Word) (k q : Nat) (hk : k ≤ 32) (hm : row.mask.toNat = 2 ^ 32 - 2 ^ k)
    (hp : row.pattern.toNat = q * 2 ^ k) : row.selects w = true ↔ w.toNat / 2 ^ k = q := by
  rw [OpcodeRow.selects, beq_iff_eq, ← BitVec.toNat_inj, BitVec.toNat_and, hm, hp,
    and_top_bits _ _ hk w.isLt]
  exact Nat.mul_left_inj (by positivity)

theorem nibble_toNat (w : Word) (lo : Nat) : (nibble w lo).toNat = w.toNat / 2 ^ lo % 16 := by
  simp [nibble, Nat.shiftRight_eq_div_pow]

theorem octet_toNat (w : Word) (lo : Nat) : (octet w lo).toNat = w.toNat / 2 ^ lo % 256 := by
  simp [octet, Nat.shiftRight_eq_div_pow]

/-- Appending is a sum. -/
theorem append_toNat {m n : Nat} (x : BitVec m) (y : BitVec n) : (x ++ y).toNat = x.toNat * 2 ^ n + y.toNat := by
  rw [BitVec.toNat_append, Nat.shiftLeft_eq, ← Nat.shiftLeft_eq, ← Nat.shiftLeft_add_eq_or_of_lt y.isLt, Nat.shiftLeft_eq]

theorem encode_g_toNat (a b c d sx sy : Index) : (encode (.g a b c d sx sy)).toNat =
    0x10000000 + a.toNat * 2 ^ 20 + b.toNat * 2 ^ 16 + c.toNat * 2 ^ 12 + d.toNat * 2 ^ 8 + sx.toNat * 2 ^ 4 + sy.toNat := by
  rw [show encode (.g a b c d sx sy) = 0x10#8 ++ a ++ b ++ c ++ d ++ sx ++ sy from rfl]
  rw [append_toNat, append_toNat, append_toNat, append_toNat, append_toNat, append_toNat]
  simp only [BitVec.toNat_ofNat]
  omega

theorem encode_round_toNat (r : Index) : (encode (.round r)).toNat = 0x40000000 + r.toNat := by
  rw [show encode (.round r) = 0x4#4 ++ 0#24 ++ r from rfl, append_toNat, append_toNat]
  simp only [BitVec.toNat_ofNat]
  omega

theorem encode_init_toNat (n k : Byte) : (encode (.init n k)).toNat = 0x60000000 + k.toNat * 2 ^ 8 + n.toNat := by
  rw [show encode (.init n k) = 0x6#4 ++ 0#12 ++ k ++ n from rfl, append_toNat, append_toNat, append_toNat]
  simp only [BitVec.toNat_ofNat]
  omega

theorem encode_final_toNat (len : BitVec 7) : (encode (.final len)).toNat = 0x80000000 + len.toNat := by
  rw [show encode (.final len) = 0x8#4 ++ 0#21 ++ len from rfl, append_toNat, append_toNat]
  simp only [BitVec.toNat_ofNat]
  omega

theorem encode_hash_toNat (n klen : Byte) (slen plen : Index) : (encode (.hash n klen slen plen)).toNat =
    0xA0000000 + plen.toNat * 2 ^ 20 + slen.toNat * 2 ^ 16 + klen.toNat * 2 ^ 8 + n.toNat := by
  rw [show encode (.hash n klen slen plen) = 0xA0#8 ++ plen ++ slen ++ klen ++ n from rfl,
    append_toNat, append_toNat, append_toNat, append_toNat]
  simp only [BitVec.toNat_ofNat]
  omega

/-- The operand check as the decoder applies it. -/
def checked (i : Instr) : Except DecodeError Instr :=
  match operandError i with
  | some e => .error e
  | none => .ok i

theorem checked_eq_ok (i j : Instr) : checked i = .ok j ↔ wellFormed i = true ∧ j = i := by
  rw [eq_comm (a := j)]
  cases i <;> simp only [checked, operandError, wellFormed] <;> (try split_ifs) <;> simp_all

/-- The decoder row by row, in numbers (R57). -/
theorem decode_eq (w : Word) : decode w =
    if w.toNat / 2 ^ 24 = 0x10 then
      checked (.g (nibble w 20) (nibble w 16) (nibble w 12) (nibble w 8) (nibble w 4) (nibble w 0))
    else if w.toNat = 0x20000000 then .ok .vinit
    else if w.toNat = 0x30000000 then .ok .fold
    else if w.toNat / 2 ^ 4 = 0x4000000 then checked (.round (nibble w 0))
    else if w.toNat = 0x50000000 then .ok .f
    else if w.toNat / 2 ^ 16 = 0x6000 then .ok (.init (octet w 0) (octet w 8))
    else if w.toNat = 0x70000000 then .ok .absorb
    else if w.toNat / 2 ^ 7 = 0x1000000 then checked (.final (w.extractLsb' 0 7))
    else if w.toNat = 0x90000000 then .ok .extract
    else if w.toNat / 2 ^ 24 = 0xA0 then .ok (.hash (octet w 0) (octet w 8) (nibble w 16) (nibble w 20))
    else if w.toNat = 0xB0000000 then .ok .hash256
    else .error (reservedError w) := by
  have key : ∀ (m p : Word) (f : Word → Instr) (k q : Nat), k ≤ 32 → m.toNat = 2 ^ 32 - 2 ^ k → p.toNat = q * 2 ^ k →
      OpcodeRow.selects ⟨m, p, f⟩ w = decide (w.toNat / 2 ^ k = q) := fun m p f k q hk hm hp => by
    rw [Bool.eq_iff_iff, selects_iff ⟨m, p, f⟩ w k q hk hm hp, decide_eq_true_iff]
  have k1 := fun f => key 0xFF000000 0x10000000 f 24 0x10 (by omega) rfl rfl
  have k2 := fun f => key 0xFFFFFFFF 0x20000000 f 0 0x20000000 (by omega) rfl rfl
  have k3 := fun f => key 0xFFFFFFFF 0x30000000 f 0 0x30000000 (by omega) rfl rfl
  have k4 := fun f => key 0xFFFFFFF0 0x40000000 f 4 0x4000000 (by omega) rfl rfl
  have k5 := fun f => key 0xFFFFFFFF 0x50000000 f 0 0x50000000 (by omega) rfl rfl
  have k6 := fun f => key 0xFFFF0000 0x60000000 f 16 0x6000 (by omega) rfl rfl
  have k7 := fun f => key 0xFFFFFFFF 0x70000000 f 0 0x70000000 (by omega) rfl rfl
  have k8 := fun f => key 0xFFFFFF80 0x80000000 f 7 0x1000000 (by omega) rfl rfl
  have k9 := fun f => key 0xFFFFFFFF 0x90000000 f 0 0x90000000 (by omega) rfl rfl
  have k10 := fun f => key 0xFF000000 0xA0000000 f 24 0xA0 (by omega) rfl rfl
  have k11 := fun f => key 0xFFFFFFFF 0xB0000000 f 0 0xB0000000 (by omega) rfl rfl
  simp only [Nat.pow_zero, Nat.div_one] at k2 k3 k5 k7 k9 k11
  unfold decode opcodeRows
  simp only [List.find?_cons, k1, k2, k3, k4, k5, k6, k7, k8, k9, k10, k11, List.find?_nil]
  clear k1 k2 k3 k4 k5 k6 k7 k8 k9 k10 k11 key
  by_cases h : w.toNat / 2 ^ 24 = 0x10
  · rw [if_pos h, decide_eq_true h]; rfl
  rw [if_neg h, decide_eq_false h]; clear h
  by_cases h : w.toNat = 0x20000000
  · rw [if_pos h, decide_eq_true h]; rfl
  rw [if_neg h, decide_eq_false h]; clear h
  by_cases h : w.toNat = 0x30000000
  · rw [if_pos h, decide_eq_true h]; rfl
  rw [if_neg h, decide_eq_false h]; clear h
  by_cases h : w.toNat / 2 ^ 4 = 0x4000000
  · rw [if_pos h, decide_eq_true h]; rfl
  rw [if_neg h, decide_eq_false h]; clear h
  by_cases h : w.toNat = 0x50000000
  · rw [if_pos h, decide_eq_true h]; rfl
  rw [if_neg h, decide_eq_false h]; clear h
  by_cases h : w.toNat / 2 ^ 16 = 0x6000
  · rw [if_pos h, decide_eq_true h]; rfl
  rw [if_neg h, decide_eq_false h]; clear h
  by_cases h : w.toNat = 0x70000000
  · rw [if_pos h, decide_eq_true h]; rfl
  rw [if_neg h, decide_eq_false h]; clear h
  by_cases h : w.toNat / 2 ^ 7 = 0x1000000
  · rw [if_pos h, decide_eq_true h]; rfl
  rw [if_neg h, decide_eq_false h]; clear h
  by_cases h : w.toNat = 0x90000000
  · rw [if_pos h, decide_eq_true h]; rfl
  rw [if_neg h, decide_eq_false h]; clear h
  by_cases h : w.toNat / 2 ^ 24 = 0xA0
  · rw [if_pos h, decide_eq_true h]; rfl
  rw [if_neg h, decide_eq_false h]; clear h
  by_cases h : w.toNat = 0xB0000000
  · rw [if_pos h, decide_eq_true h]; rfl
  rw [if_neg h, decide_eq_false h]

/-- What a word that decodes is: one lemma for every later case analysis (R57, R58). -/
theorem decode_cases {w : Word} {i : Instr} (hd : decode w = .ok i) :
    ((w.toNat / 2 ^ 24 = 0x10) ∧ i = .g (nibble w 20) (nibble w 16) (nibble w 12) (nibble w 8) (nibble w 4) (nibble w 0) ∧ wellFormed (.g (nibble w 20) (nibble w 16) (nibble w 12) (nibble w 8) (nibble w 4) (nibble w 0)) = true) ∨
    ((w.toNat = 0x20000000) ∧ i = .vinit ∧ wellFormed (.vinit) = true) ∨
    ((w.toNat = 0x30000000) ∧ i = .fold ∧ wellFormed (.fold) = true) ∨
    ((w.toNat / 2 ^ 4 = 0x4000000) ∧ i = .round (nibble w 0) ∧ wellFormed (.round (nibble w 0)) = true) ∨
    ((w.toNat = 0x50000000) ∧ i = .f ∧ wellFormed (.f) = true) ∨
    ((w.toNat / 2 ^ 16 = 0x6000) ∧ i = .init (octet w 0) (octet w 8) ∧ wellFormed (.init (octet w 0) (octet w 8)) = true) ∨
    ((w.toNat = 0x70000000) ∧ i = .absorb ∧ wellFormed (.absorb) = true) ∨
    ((w.toNat / 2 ^ 7 = 0x1000000) ∧ i = .final (w.extractLsb' 0 7) ∧ wellFormed (.final (w.extractLsb' 0 7)) = true) ∨
    ((w.toNat = 0x90000000) ∧ i = .extract ∧ wellFormed (.extract) = true) ∨
    ((w.toNat / 2 ^ 24 = 0xA0) ∧ i = .hash (octet w 0) (octet w 8) (nibble w 16) (nibble w 20) ∧ wellFormed (.hash (octet w 0) (octet w 8) (nibble w 16) (nibble w 20)) = true) ∨
    ((w.toNat = 0xB0000000) ∧ i = .hash256 ∧ wellFormed (.hash256) = true) := by
  rw [decode_eq] at hd
  by_cases h : w.toNat / 2 ^ 24 = 0x10
  · rw [if_pos h] at hd
    obtain ⟨hwf, rfl⟩ := (checked_eq_ok _ _).1 hd
    exact Or.inl ⟨h, rfl, hwf⟩
  rw [if_neg h] at hd; clear h
  by_cases h : w.toNat = 0x20000000
  · rw [if_pos h] at hd
    cases hd
    exact Or.inr <| Or.inl ⟨h, rfl, rfl⟩
  rw [if_neg h] at hd; clear h
  by_cases h : w.toNat = 0x30000000
  · rw [if_pos h] at hd
    cases hd
    exact Or.inr <| Or.inr <| Or.inl ⟨h, rfl, rfl⟩
  rw [if_neg h] at hd; clear h
  by_cases h : w.toNat / 2 ^ 4 = 0x4000000
  · rw [if_pos h] at hd
    obtain ⟨hwf, rfl⟩ := (checked_eq_ok _ _).1 hd
    exact Or.inr <| Or.inr <| Or.inr <| Or.inl ⟨h, rfl, hwf⟩
  rw [if_neg h] at hd; clear h
  by_cases h : w.toNat = 0x50000000
  · rw [if_pos h] at hd
    cases hd
    exact Or.inr <| Or.inr <| Or.inr <| Or.inr <| Or.inl ⟨h, rfl, rfl⟩
  rw [if_neg h] at hd; clear h
  by_cases h : w.toNat / 2 ^ 16 = 0x6000
  · rw [if_pos h] at hd
    cases hd
    exact Or.inr <| Or.inr <| Or.inr <| Or.inr <| Or.inr <| Or.inl ⟨h, rfl, rfl⟩
  rw [if_neg h] at hd; clear h
  by_cases h : w.toNat = 0x70000000
  · rw [if_pos h] at hd
    cases hd
    exact Or.inr <| Or.inr <| Or.inr <| Or.inr <| Or.inr <| Or.inr <| Or.inl ⟨h, rfl, rfl⟩
  rw [if_neg h] at hd; clear h
  by_cases h : w.toNat / 2 ^ 7 = 0x1000000
  · rw [if_pos h] at hd
    obtain ⟨hwf, rfl⟩ := (checked_eq_ok _ _).1 hd
    exact Or.inr <| Or.inr <| Or.inr <| Or.inr <| Or.inr <| Or.inr <| Or.inr <| Or.inl ⟨h, rfl, hwf⟩
  rw [if_neg h] at hd; clear h
  by_cases h : w.toNat = 0x90000000
  · rw [if_pos h] at hd
    cases hd
    exact Or.inr <| Or.inr <| Or.inr <| Or.inr <| Or.inr <| Or.inr <| Or.inr <| Or.inr <| Or.inl ⟨h, rfl, rfl⟩
  rw [if_neg h] at hd; clear h
  by_cases h : w.toNat / 2 ^ 24 = 0xA0
  · rw [if_pos h] at hd
    cases hd
    exact Or.inr <| Or.inr <| Or.inr <| Or.inr <| Or.inr <| Or.inr <| Or.inr <| Or.inr <| Or.inr <| Or.inl ⟨h, rfl, rfl⟩
  rw [if_neg h] at hd; clear h
  by_cases h : w.toNat = 0xB0000000
  · rw [if_pos h] at hd
    cases hd
    exact Or.inr <| Or.inr <| Or.inr <| Or.inr <| Or.inr <| Or.inr <| Or.inr <| Or.inr <| Or.inr <| Or.inr <| ⟨h, rfl, rfl⟩
  rw [if_neg h] at hd; clear h
  cases hd

end Sys2Proof
end

