-- ==== Sys2Proof/Laws/Pipeline.lean ====
section
/-! SUPPORT. What ABSORB, FINAL and the sequencing rule do to each register, and when they complete (spec 44 R131 to R138). -/

namespace Sys2Proof.Machine

/-! ### ABSORB -/

@[simp] theorem absorbed_phase (s : State) : (absorbed s).phase = s.phase := by simp [absorbed]
@[simp] theorem absorbed_f0 (s : State) : (absorbed s).f0 = s.f0 := by simp [absorbed]
@[simp] theorem absorbed_inq (s : State) : (absorbed s).inq = s.inq.drop 64 := by simp [absorbed]
@[simp] theorem absorbed_B (s : State) : (absorbed s).B = fillBlock s.inq 64 := by simp [absorbed]
@[simp] theorem absorbed_m (s : State) : (absorbed s).m = loadMessage (fillBlock s.inq 64) := by simp [absorbed]
@[simp] theorem absorbed_t0 (s : State) : (absorbed s).t0 = BitVec.ofNat 32 (counter s + 64) := by
  simp only [absorbed, compress_t0, advanceCounter_t0, counter_takeBlock]
@[simp] theorem absorbed_t1 (s : State) : (absorbed s).t1 = BitVec.ofNat 32 ((counter s + 64) / 2 ^ 32) := by
  simp only [absorbed, compress_t1, advanceCounter_t1, counter_takeBlock]

/-- What ABSORB may write; everything else is as before (R131). -/
theorem absorbed_frame (s : State) : absorbed s =
    { s with B := (absorbed s).B, m := (absorbed s).m, t0 := (absorbed s).t0, t1 := (absorbed s).t1,
             inq := (absorbed s).inq, h := (absorbed s).h, v := (absorbed s).v, pc := 0,
             written := { s.written with v := true, m := true, t := true }, draws := (absorbed s).draws } := by
  have e := compress_frame (advanceCounter 64 (takeBlock 64 s))
  rw [compress_written, show compress (advanceCounter 64 (takeBlock 64 s)) = absorbed s by rw [absorbed]] at e
  rw [absorbed_B, absorbed_m, absorbed_t0, absorbed_t1, absorbed_inq, e]
  simp only [advanceCounter, setCounter, takeBlock, counter]

theorem counter_absorbed {s : State} (h : counter s + 64 < 2 ^ 64) : counter (absorbed s) = counter s + 64 := by
  rw [absorbed, counter_compress, counter_advanceCounter, counter_takeBlock]
  rwa [counter_takeBlock]

/-- When ABSORB completes (R131, R133). -/
theorem absorbState_done {s : State} (h : s.phase = .continuing) (hq : 64 < s.inq.length) (hc : counter s + 64 < 2 ^ 64) :
    absorbState s = .done (absorbed s) := by
  have : counterPasses 64 s = false := by simp only [counterPasses, decide_eq_false_iff_not]; omega
  rw [absorbState, if_pos ⟨h, hq⟩, this]
  simp only [Bool.false_eq_true, if_false]

/-! ### FINAL -/

@[simp] theorem finalized_phase (len : Nat) (s : State) : (finalized len s).phase = .final := by simp [finalized]
@[simp] theorem finalized_f0 (len : Nat) (s : State) : (finalized len s).f0 = true := by simp [finalized]
@[simp] theorem finalized_inq (len : Nat) (s : State) : (finalized len s).inq = s.inq.drop len := by simp [finalized]
@[simp] theorem finalized_B (len : Nat) (s : State) : (finalized len s).B = fillBlock s.inq len := by simp [finalized]
@[simp] theorem finalized_m (len : Nat) (s : State) : (finalized len s).m = loadMessage (fillBlock s.inq len) := by
  simp [finalized]
@[simp] theorem finalized_t0 (len : Nat) (s : State) : (finalized len s).t0 = BitVec.ofNat 32 (counter s + len) := by
  simp only [finalized, compress_t0, setLastBlock_t0, advanceCounter_t0, counter_takeBlock]
@[simp] theorem finalized_t1 (len : Nat) (s : State) :
    (finalized len s).t1 = BitVec.ofNat 32 ((counter s + len) / 2 ^ 32) := by
  simp only [finalized, compress_t1, setLastBlock_t1, advanceCounter_t1, counter_takeBlock]

/-- What FINAL may write; everything else is as before (R132). -/
theorem finalized_frame {len : Nat} {s : State} (h : len = s.inq.length) : finalized len s =
    { s with B := (finalized len s).B, m := (finalized len s).m, t0 := (finalized len s).t0, t1 := (finalized len s).t1,
             f0 := true, phase := .final, inq := [], h := (finalized len s).h, v := (finalized len s).v, pc := 0,
             written := { s.written with v := true, m := true, t := true, f0 := true },
             draws := (finalized len s).draws } := by
  have hd : s.inq.drop len = [] := by simp [h]
  have e := compress_frame (setLastBlock true { advanceCounter len (takeBlock len s) with phase := .final })
  rw [compress_written, show compress (setLastBlock true { advanceCounter len (takeBlock len s) with phase := .final }) =
    finalized len s by rw [finalized]] at e
  rw [finalized_B, finalized_m, finalized_t0, finalized_t1, e]
  simp only [setLastBlock, advanceCounter, setCounter, takeBlock, counter, hd]

theorem counter_finalized {len : Nat} {s : State} (h : counter s + len < 2 ^ 64) :
    counter (finalized len s) = counter s + len := by
  rw [finalized, counter_compress, counter_setLastBlock]
  have := counter_advanceCounter (s := takeBlock len s) (inc := len) (by rwa [counter_takeBlock])
  rw [counter_takeBlock] at this
  simpa only [counter] using this

/-- When FINAL completes (R132, R133). -/
theorem finalState_done {len : Nat} {s : State} (h : s.phase = .continuing) (hq : len = s.inq.length)
    (hc : counter s + len < 2 ^ 64) : finalState len s = .done (finalized len s) := by
  have : counterPasses len s = false := by simp only [counterPasses, decide_eq_false_iff_not]; omega
  rw [finalState, if_pos ⟨h, hq⟩, this]
  simp only [Bool.false_eq_true, if_false]

/-! ### The sequencing rule -/

/-- The sequencing rule completes on a started invocation with its input in the queue, and what it may write (R134). -/
theorem absorbWhile_final_done (fuel : Nat) {s : State} (h : s.phase = .continuing)
    (hc : counter s + s.inq.length < 2 ^ 64) (hf : s.inq.length ≤ 64 * (fuel + 1)) :
    ∃ t, ((absorbWhile fuel s).andThen fun s' => finalState s'.inq.length s') = .done t ∧
      t = { s with B := t.B, m := t.m, t0 := t.t0, t1 := t.t1, f0 := true, phase := .final, inq := [], h := t.h, v := t.v,
                   pc := 0, written := { s.written with v := true, m := true, t := true, f0 := true },
                   draws := t.draws } := by
  induction fuel generalizing s with
  | zero =>
    refine ⟨finalized s.inq.length s, ?_, finalized_frame rfl⟩
    rw [absorbWhile, andThen_done, finalState_done h rfl hc]
  | succ k ih =>
    by_cases hlt : 64 < s.inq.length
    · have h64 : counter s + 64 < 2 ^ 64 := by omega
      have hl : (absorbed s).inq.length = s.inq.length - 64 := by simp
      obtain ⟨t, e1, e2⟩ := ih (s := absorbed s) (by rwa [absorbed_phase]) (by rw [counter_absorbed h64, hl]; omega)
        (by rw [hl]; omega)
      refine ⟨t, ?_, e2.trans ?_⟩
      · rw [absorbWhile, if_pos hlt, absorbState_done h hlt h64]; exact e1
      · rw [absorbed_frame]
    · refine ⟨finalized s.inq.length s, ?_, finalized_frame rfl⟩
      rw [absorbWhile, if_neg hlt, andThen_done, finalState_done h rfl hc]

theorem pipeline_done {s : State} (h : s.phase = .continuing) (hc : counter s + s.inq.length < 2 ^ 64) :
    ∃ t, pipeline s = .done t ∧
      t = { s with B := t.B, m := t.m, t0 := t.t0, t1 := t.t1, f0 := true, phase := .final, inq := [], h := t.h, v := t.v,
                   pc := 0, written := { s.written with v := true, m := true, t := true, f0 := true },
                   draws := t.draws } :=
  absorbWhile_final_done _ h hc (by omega)

end Sys2Proof.Machine
end

