-- ==== Sys2Proof/Laws/Exec.lean ====
section
/-! SUPPORT. Everything a control word can do when exec answers a next state: it took an exception, or it had its effect under the conditions its rule names. -/

namespace Sys2Proof.Machine

/-! ### INIT, EXTRACT and HASH -/

theorem initLengthError_eq_none (n k : Byte) : initLengthError n k = none ↔ 1 ≤ n.toNat ∧ n.toNat ≤ 32 ∧ k.toNat ≤ 32 := by
  rw [initLengthError]
  split_ifs <;> simp <;> omega

theorem hashLengthError_eq_none (n klen : Byte) (slen plen : Index) : hashLengthError n klen slen plen = none ↔
    1 ≤ n.toNat ∧ n.toNat ≤ 32 ∧ klen.toNat ≤ 32 ∧ slen.toNat ≤ 8 ∧ plen.toNat ≤ 8 := by
  rw [hashLengthError]
  split_ifs <;> simp <;> omega

theorem hashLengthError_ne_protocolError (n klen : Byte) (slen plen : Index) :
    hashLengthError n klen slen plen ≠ some .protocolError := by
  rw [hashLengthError]
  split_ifs <;> simp

/-- When INIT completes (R110, R111; log entry 6). -/
theorem initState_done {n k : Byte} {s : State} (h : s.phase = .idle) (hl : initLengthError n k = none)
    (hr : initReadable k s = true) : initState n k s = .done (initialized n k s) := by
  simp only [initState, h, hl, hr, if_true]

theorem extractState_done {s : State} (h : s.phase = .final) : extractState s = .done (extracted s) := by
  rw [extractState, if_pos h]

/-- After HASH has loaded its registers, everything INIT reads has been written. -/
theorem initReadable_loadRequest (k : Byte) (klen slen plen : Nat) (s : State) :
    initReadable k (loadRequest klen slen plen s) = true := by
  simp [initReadable]

/-- HASH with legal lengths and an input within MAX_INPUT completes, and what it keeps (R161). -/
theorem hashState_done {n klen : Byte} {slen plen : Index} {s : State} (h : s.phase = .idle)
    (hl : hashLengthError n klen slen plen = none) (hm : inputLength klen s ≤ Config.maxInput) :
    ∃ u, hashState n klen slen plen s = .done (respond n.toNat (extracted u)) ∧ u.inq = [] ∧ u.pc = 0 ∧
      u.f1 = s.f1 ∧ u.request = s.request ∧ u.pending = s.pending ∧ u.resetPin = s.resetPin := by
  obtain ⟨l1, l2, l3, -, -⟩ := (hashLengthError_eq_none ..).1 hl
  have hp : (loadRequest klen.toNat slen.toNat plen.toNat s).phase = .idle := by simpa using h
  have hi := initState_done hp ((initLengthError_eq_none n klen).2 ⟨l1, l2, l3⟩) (initReadable_loadRequest ..)
  have hc : counter (initialized n klen (loadRequest klen.toNat slen.toNat plen.toNat s)) = 0 := by
    simp [counter, initialized]
  have hq : (initialized n klen (loadRequest klen.toNat slen.toNat plen.toNat s)).inq.length = inputLength klen s := by
    simp only [initialized, inputLength]
    split_ifs <;> simp [keyBlock_length _ l3]
  obtain ⟨u, e, f⟩ := pipeline_done (s := initialized n klen (loadRequest klen.toNat slen.toNat plen.toNat s))
    (by simp only [initialized]) (by rw [hc, hq, Nat.zero_add]; exact Nat.lt_of_le_of_lt hm (by decide))
  have hphase : u.phase = .final := by rw [f]
  refine ⟨u, ?_, by rw [f], by rw [f], ?_, ?_, ?_, ?_⟩
  · rw [hashState, if_pos h, hl]
    simp only
    rw [if_neg (Nat.not_lt.2 hm), invocation, hi, andThen_done, e, andThen_done, extractState_done hphase, andThen_done]
  all_goals rw [f]; simp [initialized]

/-- Everything HASH can do (R160, R161). -/
theorem hashState_cases (n klen : Byte) (slen plen : Index) (s : State) :
    (s.phase ≠ .idle ∧ hashState n klen slen plen s = .raised .protocolError s) ∨
    (s.phase = .idle ∧ ∃ c, hashLengthError n klen slen plen = some c ∧ hashState n klen slen plen s = .raised c s) ∨
    (s.phase = .idle ∧ hashLengthError n klen slen plen = none ∧ Config.maxInput < inputLength klen s ∧
      hashState n klen slen plen s = .refused .inputTooLong) ∨
    (s.phase = .idle ∧ hashLengthError n klen slen plen = none ∧ inputLength klen s ≤ Config.maxInput) := by
  by_cases h : s.phase = .idle
  · rcases he : hashLengthError n klen slen plen with _ | c
    · by_cases hm : Config.maxInput < inputLength klen s
      · refine .inr (.inr (.inl ⟨h, rfl, hm, ?_⟩))
        rw [hashState, if_pos h, he]
        simp only
        rw [if_pos hm]
      · exact .inr (.inr (.inr ⟨h, rfl, Nat.not_lt.1 hm⟩))
    · refine .inr (.inl ⟨h, c, rfl, ?_⟩)
      rw [hashState, if_pos h, he]
  · refine .inl ⟨h, ?_⟩
    rw [hashState, if_neg h]

/-! ### Every control word -/

/-- What a control word did when it took no exception, and the conditions under which it does it. -/
def Effect (i : Instr) (s t : State) : Prop :=
  match i with
  | .g a b c d sx sy =>
    t = mix a b c d sx sy s ∧ distinctIndices a b c d = true ∧ s.written.v = true ∧ s.written.m = true
  | .vinit => t = vinit s ∧ s.written.h = true ∧ s.written.t = true ∧ s.written.f0 = true
  | .fold => t = fold s ∧ s.written.h = true ∧ s.written.v = true
  | .round r => ∃ h : r.toNat < 10, t = roundSteps ⟨r.toNat, h⟩ s ∧ s.written.v = true ∧ s.written.m = true
  | .f => t = compress s ∧ s.written.h = true ∧ s.written.m = true ∧ s.written.t = true ∧ s.written.f0 = true
  | .init n k => t = initialized n k s ∧ s.phase = .idle ∧ initLengthError n k = none ∧ initReadable k s = true
  | .absorb => t = absorbed s ∧ s.phase = .continuing ∧ 64 < s.inq.length ∧ counter s + 64 < 2 ^ 64
  | .final len =>
    t = finalized len.toNat s ∧ s.phase = .continuing ∧ len.toNat = s.inq.length ∧ counter s + len.toNat < 2 ^ 64
  | .extract => t = extracted s ∧ s.phase = .final
  | .hash n _ _ _ => s.phase = .idle ∧ ∃ u, t = respond n.toNat (extracted u) ∧ u.inq = [] ∧ u.pc = 0 ∧ u.f1 = s.f1 ∧
      u.request = s.request ∧ u.pending = s.pending ∧ u.resetPin = s.resetPin
  | .hash256 => s.phase = .idle ∧ ∃ u, t = respond 32 (extracted u) ∧ u.inq = [] ∧ u.pc = 0 ∧ u.f1 = s.f1 ∧
      u.request = s.request ∧ u.pending = s.pending ∧ u.resetPin = s.resetPin

theorem next_of_done {s t : State} (h : (Result.done s).conclude = .next t) : t = s := by
  rw [conclude_done, Host.Outcome.next.injEq] at h
  exact h.symm

theorem next_of_raised {c : Cause} {s t : State} (h : (Result.raised c s).conclude = .next t) : t = takeException c s := by
  rw [conclude_raised, Host.Outcome.next.injEq] at h
  exact h.symm

theorem not_next_of_refused {r : Refusal} {t : State} : (Result.refused r).conclude ≠ .next t := by
  rw [conclude_refused]
  exact fun h => nomatch h

theorem counter_of_not_passes {inc : Nat} {s : State} (h : ¬ counterPasses inc s = true) : counter s + inc < 2 ^ 64 := by
  rw [counterPasses_iff] at h
  omega

/-- HASH: an exception, ProtocolError exactly when the core is not idle, or its effect. -/
theorem hashState_next {n klen : Byte} {slen plen : Index} {s t : State}
    (h : (hashState n klen slen plen s).conclude = .next t) :
    (∃ c, t = takeException c s ∧ (c = .protocolError ↔ s.phase ≠ .idle)) ∨
    (s.phase = .idle ∧ ∃ u, t = respond n.toNat (extracted u) ∧ u.inq = [] ∧ u.pc = 0 ∧ u.f1 = s.f1 ∧
      u.request = s.request ∧ u.pending = s.pending ∧ u.resetPin = s.resetPin) := by
  rcases hashState_cases n klen slen plen s with ⟨h0, e⟩ | ⟨h0, c, hc, e⟩ | ⟨-, -, -, e⟩ | ⟨h0, hl, hm⟩
  · rw [e] at h
    exact .inl ⟨_, next_of_raised h, by simp [h0]⟩
  · rw [e] at h
    refine .inl ⟨_, next_of_raised h, ?_⟩
    simp only [h0, ne_eq, not_true, iff_false]
    rintro rfl
    exact hashLengthError_ne_protocolError _ _ _ _ hc
  · rw [e] at h
    exact (not_next_of_refused h).elim
  · obtain ⟨u, e, f⟩ := hashState_done h0 hl hm
    rw [e] at h
    exact .inr ⟨h0, u, next_of_done h, f⟩

/-- THE INVERSION: a next state is an exception's entry or the control word's effect. -/
theorem exec_cases {i : Instr} {s t : State} (h : exec i s = .next t) : (∃ c, t = takeException c s) ∨ Effect i s t := by
  cases i with
  | g a b c d sx sy =>
    simp only [exec, execG] at h
    split_ifs at h with h1 h2
    · exact .inr ⟨next_of_done h, h1, by simpa [mixReadable] using h2⟩
    · exact .inl ⟨_, next_of_raised h⟩
    · exact .inl ⟨_, next_of_raised h⟩
  | round r =>
    simp only [exec, execRound] at h
    split_ifs at h with h1 h2
    · exact .inr ⟨h1, next_of_done h, by simpa [mixReadable] using h2⟩
    · exact .inl ⟨_, next_of_raised h⟩
    · exact .inl ⟨_, next_of_raised h⟩
  | vinit =>
    simp only [exec, execVinit] at h
    split_ifs at h with h1
    · exact .inr ⟨next_of_done h, by simpa [and_assoc] using h1⟩
    · exact .inl ⟨_, next_of_raised h⟩
  | fold =>
    simp only [exec, execFold] at h
    split_ifs at h with h1
    · exact .inr ⟨next_of_done h, by simpa using h1⟩
    · exact .inl ⟨_, next_of_raised h⟩
  | f =>
    simp only [exec, execF] at h
    split_ifs at h with h1
    · exact .inr ⟨next_of_done h, by simpa [and_assoc] using h1⟩
    · exact .inl ⟨_, next_of_raised h⟩
  | init n k =>
    simp only [exec, execInit, initState] at h
    by_cases h1 : s.phase = .idle
    · rw [if_pos h1] at h
      rcases he : initLengthError n k with _ | c
      · rw [he] at h
        by_cases h2 : initReadable k s = true
        · simp only [h2, if_true] at h
          exact .inr ⟨next_of_done h, h1, he, h2⟩
        · simp only [h2] at h
          exact .inl ⟨_, next_of_raised h⟩
      · rw [he] at h
        exact .inl ⟨_, next_of_raised h⟩
    · rw [if_neg h1] at h
      exact .inl ⟨_, next_of_raised h⟩
  | absorb =>
    simp only [exec, execAbsorb, absorbState] at h
    split_ifs at h with h1 h2
    · exact (not_next_of_refused h).elim
    · exact .inr ⟨next_of_done h, h1.1, h1.2, counter_of_not_passes h2⟩
    · exact .inl ⟨_, next_of_raised h⟩
  | final len =>
    simp only [exec, execFinal] at h
    split_ifs at h with h0
    · simp only [finalState] at h
      split_ifs at h with h1 h2
      · exact (not_next_of_refused h).elim
      · exact .inr ⟨next_of_done h, h1.1, h1.2, counter_of_not_passes h2⟩
      · exact .inl ⟨_, next_of_raised h⟩
    · exact .inl ⟨_, next_of_raised h⟩
  | extract =>
    simp only [exec, execExtract, extractState] at h
    split_ifs at h with h1
    · exact .inr ⟨next_of_done h, h1⟩
    · exact .inl ⟨_, next_of_raised h⟩
  | hash n klen slen plen =>
    simp only [exec, execHash] at h
    exact (hashState_next h).imp (fun ⟨c, hc, _⟩ => ⟨c, hc⟩) id
  | hash256 =>
    simp only [exec, execHash256] at h
    exact (hashState_next h).imp (fun ⟨c, hc, _⟩ => ⟨c, hc⟩) id

end Sys2Proof.Machine
end

