-- ==== Sys2Proof/Laws/Mixing.lean ====
section
/-! SUPPORT. What G does to each register, rotation bit by bit, and that its steps can be undone. -/

namespace Sys2Proof.Machine

/-- The four slots after G (R82). -/
theorem getReg_mixVector_slots (v : Vector Word 16) {a b c d : Index} (h : distinctIndices a b c d = true) (x y : Word) :
    getReg (mixVector v a b c d x y) a = (mixWords (getReg v a) (getReg v b) (getReg v c) (getReg v d) x y).1 ∧
    getReg (mixVector v a b c d x y) b = (mixWords (getReg v a) (getReg v b) (getReg v c) (getReg v d) x y).2.1 ∧
    getReg (mixVector v a b c d x y) c = (mixWords (getReg v a) (getReg v b) (getReg v c) (getReg v d) x y).2.2.1 ∧
    getReg (mixVector v a b c d x y) d = (mixWords (getReg v a) (getReg v b) (getReg v c) (getReg v d) x y).2.2.2 := by
  obtain ⟨hab, hac, had, hbc, hbd, hcd⟩ := (distinctIndices_iff a b c d).1 h
  simp only [mixVector, getReg_setReg_self, getReg_setReg_ne _ _ hab.symm, getReg_setReg_ne _ _ hac.symm,
    getReg_setReg_ne _ _ had.symm, getReg_setReg_ne _ _ hbc.symm, getReg_setReg_ne _ _ hbd.symm,
    getReg_setReg_ne _ _ hcd.symm, and_self]

/-- Every other register keeps its value (R83). -/
theorem getReg_mixVector_other (v : Vector Word 16) {a b c d i : Index} (ha : a ≠ i) (hb : b ≠ i) (hc : c ≠ i)
    (hd : d ≠ i) (x y : Word) : getReg (mixVector v a b c d x y) i = getReg v i := by
  simp only [mixVector, getReg_setReg_ne _ _ ha, getReg_setReg_ne _ _ hb, getReg_setReg_ne _ _ hc, getReg_setReg_ne _ _ hd]

/-- A rotation loses nothing. -/
theorem rotr32_injective {s : Nat} (hs : 0 < s) (hs' : s < 32) {x y : Word} (h : rotr32 x s = rotr32 y s) : x = y := by
  refine BitVec.eq_of_getElem_eq fun i hi => ?_
  by_cases hlt : i < s
  · have e := congrArg (fun w => w.getLsbD (i + (32 - s))) h
    have hx : ∀ w : Word, w.getLsbD (s + (i + (32 - s))) = false := fun w => BitVec.getLsbD_of_ge _ _ (by omega)
    simpa [rotr32, hx, show i + (32 - s) < 32 by omega] using e
  · have e := congrArg (fun w => w.getLsbD (i - s)) h
    simpa [rotr32, hi, show s + (i - s) = i by omega, show i - s < 32 by omega, show i - s < 32 - s by omega] using e

end Sys2Proof.Machine
end

