-- ==== Sys2Proof/Laws/PerInstr.lean ====
section
/-! SUPPORT. One lemma per control word: its encoding carries an opcode of the map, never a reserved one (spec 30_encoding R57, R58). -/

namespace Sys2Proof.Laws

/-- The opcode field of the encoding is one of 0x1 to 0xB (R57); 0x0 and 0xC to 0xF are reserved (R58). -/
def OpField.Statement (i : Instr) : Prop := 1 ≤ (nibble (encode i) 28).toNat ∧ (nibble (encode i) 28).toNat ≤ 11

theorem OpField.g (a b c d sx sy : Index) : OpField.Statement (.g a b c d sx sy) := by
  rw [OpField.Statement, nibble_toNat, encode_g_toNat]
  omega

theorem OpField.vinit : OpField.Statement .vinit := by unfold OpField.Statement; decide

theorem OpField.fold : OpField.Statement .fold := by unfold OpField.Statement; decide

theorem OpField.round (r : Index) : OpField.Statement (.round r) := by
  rw [OpField.Statement, nibble_toNat, encode_round_toNat]
  omega

theorem OpField.f : OpField.Statement .f := by unfold OpField.Statement; decide

theorem OpField.init (n k : Byte) : OpField.Statement (.init n k) := by
  rw [OpField.Statement, nibble_toNat, encode_init_toNat]
  omega

theorem OpField.absorb : OpField.Statement .absorb := by unfold OpField.Statement; decide

theorem OpField.final (len : BitVec 7) : OpField.Statement (.final len) := by
  rw [OpField.Statement, nibble_toNat, encode_final_toNat]
  omega

theorem OpField.extract : OpField.Statement .extract := by unfold OpField.Statement; decide

theorem OpField.hash (n klen : Byte) (slen plen : Index) : OpField.Statement (.hash n klen slen plen) := by
  rw [OpField.Statement, nibble_toNat, encode_hash_toNat]
  omega

theorem OpField.hash256 : OpField.Statement .hash256 := by unfold OpField.Statement; decide

end Sys2Proof.Laws
end

