-- ==== Sys2Proof/Tests/Slice0.lean ====
section
/-! SUPPORT. The model's own tests: operand checks, decoding from words written out from the spec, one step of each control word against spec/95_test_vectors.md, and a state that meets the hypotheses of each obligation. -/

namespace Sys2Proof.Tests

open Sys2Proof Sys2Proof.Machine Sys2Proof.Safety

/-! ### Helpers -/

/-- A field of the next state; `none` for a refusal. -/
def after {α : Type} (o : Host.Outcome State Fault Refusal) (field : State → α) : Option α :=
  match o with
  | .next t => some (field t)
  | .fault _ => none
  | .refused _ => none

/-- A register file from its first words, zeros beyond. -/
def words {n : Nat} (ws : List Word) : Vector Word n := Vector.ofFn fun i => ws.getD i.val 0

/-- A byte register from its first bytes, zeros beyond. -/
def octets {n : Nat} (bs : List Byte) : Vector Byte n := Vector.ofFn fun i => bs.getD i.val 0

/-- The bytes 00 01 02 ... of length `len` (95 section 3.10, "seq"). -/
def seqBytes (len : Nat) : List Byte := (List.range len).map fun i => BitVec.ofNat 8 i

/-- Reset with every register counted as written. -/
def armed : State := { State.reset with written := ⟨true, true, true, true, true, true, true, true⟩ }

/-- A started invocation with `inq` waiting and the counter at `t1`, `t0`. -/
def started (inq : List Byte) (t1 t0 : Word) : State :=
  { armed with phase := .continuing, inq := inq, t1 := t1, t0 := t0, nn := 32 }

/-- An invocation whose final block has been compressed. -/
def finished (nn : Byte) : State := { armed with phase := .final, f0 := true, nn := nn }

/-- Reset with a request at the port, its control word not placed yet. -/
def requesting (key salt pers msg : List Byte) : State :=
  { State.reset with request := ⟨0, octets key, octets salt, octets pers, msg⟩ }

/-! ### Operand checks: an ill-formed term for each, refused -/

theorem test_equal_indices_refused : wellFormed (.g 0 0 8 12 0 1) = false ∧ wellFormed (.g 0 4 8 4 0 1) = false ∧
    wellFormed (.g 3 4 9 3 0 1) = false ∧ wellFormed (.g 0 4 8 12 5 5) = true := by decide

theorem test_round_ten_refused : wellFormed (.round 10) = false ∧ wellFormed (.round 9) = true := by decide

theorem test_final_65_refused : wellFormed (.final 65) = false ∧ wellFormed (.final 64) = true := by decide

/-! ### Decoding: each word written out bit by bit from its format (30 R51 to R56) -/

/-- Format M: op 0001, 0000, a 0001, b 0110, c 1011, d 1100, sx 0011, sy 1001 (95 G10). -/
theorem test_decode_g : decode (0b0001#4 ++ 0b0000#4 ++ 0b0001#4 ++ 0b0110#4 ++ 0b1011#4 ++ 0b1100#4 ++ 0b0011#4 ++ 0b1001#4) =
    .ok (.g 1 6 11 12 3 9) := by decide

/-- Format Z: op 0010. -/
theorem test_decode_vinit : decode (0b00100000000000000000000000000000#32) = .ok .vinit := by decide

/-- Format Z: op 0011. -/
theorem test_decode_fold : decode (0b00110000000000000000000000000000#32) = .ok .fold := by decide

/-- Format R: op 0100, r 1001. -/
theorem test_decode_round : decode (0b01000000000000000000000000001001#32) = .ok (.round 9) := by decide

/-- Format Z: op 0101. -/
theorem test_decode_f : decode (0b01010000000000000000000000000000#32) = .ok .f := by decide

/-- Format I: op 0110, twelve zeros, k 00010000, n 00010100 (95 I8). -/
theorem test_decode_init : decode (0b0110#4 ++ 0b000000000000#12 ++ 0b00010000#8 ++ 0b00010100#8) = .ok (.init 20 16) := by
  decide

/-- Format Z: op 0111. -/
theorem test_decode_absorb : decode (0b01110000000000000000000000000000#32) = .ok .absorb := by decide

/-- Format L: op 1000, len 1000000. -/
theorem test_decode_final : decode (0b10000000000000000000000001000000#32) = .ok (.final 64) := by decide

/-- Format Z: op 1001. -/
theorem test_decode_extract : decode (0b10010000000000000000000000000000#32) = .ok .extract := by decide

/-- Format H: op 1010, 0000, plen 0010, slen 0011, klen 00010000, n 00100000. -/
theorem test_decode_hash : decode (0b1010#4 ++ 0b0000#4 ++ 0b0010#4 ++ 0b0011#4 ++ 0b00010000#8 ++ 0b00100000#8) =
    .ok (.hash 32 16 3 2) := by decide

/-- Format Z: op 1011. -/
theorem test_decode_hash256 : decode (0b10110000000000000000000000000000#32) = .ok .hash256 := by decide

/-- Reserved opcodes (95 ER8). -/
theorem test_reserved_opcodes_refused : decode 0x00000000 = .error .reservedOpcode ∧
    decode 0xC0000000 = .error .reservedOpcode ∧ decode 0xFFFFFFFF = .error .reservedOpcode := by decide

/-- Bits that must be 0 (95 G11, ER8, ER9). -/
theorem test_reserved_bits_refused : decode 0x11048C01 = .error .reservedBits ∧
    decode 0xA1000020 = .error .reservedBits ∧ decode 0xB0000001 = .error .reservedBits := by decide

/-- Operands out of range (95 G11, RD4, section 3.8). -/
theorem test_bad_operands_refused : decode 0x10008C01 = .error .equalIndices ∧
    decode 0x4000000A = .error .roundOutOfRange ∧ decode 0x80000041 = .error .lengthOutOfRange := by decide

theorem test_decodeTableWord : decodeTableWord 32 0x60001014 = some (.init 20 16) ∧ decodeTableWord 32 0x4000000F = none := by
  decide

/-! ### The microprogram against the table of 30 R67 -/

/-- The control word a microprogram word stands for. -/
def microInstr : MicroOp → Instr
  | .vinit => .vinit
  | .g a b c d sx sy => .g a b c d sx sy
  | .fold => .fold

/-- The control words `UROM[1 + 8r]` to `UROM[8 + 8r]`. -/
def uromRound (r : Nat) : List Word := (List.range 8).map fun i => encode (microInstr (urom (1 + 8 * r + i)))

theorem test_urom_ends : encode (microInstr (urom 0)) = 0x20000000 ∧ encode (microInstr (urom 81)) = 0x30000000 := by decide

theorem test_urom_round0 : uromRound 0 =
    [0x10048C01, 0x10159D23, 0x1026AE45, 0x1037BF67, 0x1005AF89, 0x1016BCAB, 0x10278DCD, 0x10349EEF] := by decide

theorem test_urom_round1 : uromRound 1 =
    [0x10048CEA, 0x10159D48, 0x1026AE9F, 0x1037BFD6, 0x1005AF1C, 0x1016BC02, 0x10278DB7, 0x10349E53] := by decide

theorem test_urom_round2 : uromRound 2 =
    [0x10048CB8, 0x10159DC0, 0x1026AE52, 0x1037BFFD, 0x1005AFAE, 0x1016BC36, 0x10278D71, 0x10349E94] := by decide

theorem test_urom_round3 : uromRound 3 =
    [0x10048C79, 0x10159D31, 0x1026AEDC, 0x1037BFBE, 0x1005AF26, 0x1016BC5A, 0x10278D40, 0x10349EF8] := by decide

theorem test_urom_round4 : uromRound 4 =
    [0x10048C90, 0x10159D57, 0x1026AE24, 0x1037BFAF, 0x1005AFE1, 0x1016BCBC, 0x10278D68, 0x10349E3D] := by decide

theorem test_urom_round5 : uromRound 5 =
    [0x10048C2C, 0x10159D6A, 0x1026AE0B, 0x1037BF83, 0x1005AF4D, 0x1016BC75, 0x10278DFE, 0x10349E19] := by decide

theorem test_urom_round6 : uromRound 6 =
    [0x10048CC5, 0x10159D1F, 0x1026AEED, 0x1037BF4A, 0x1005AF07, 0x1016BC63, 0x10278D92, 0x10349E8B] := by decide

theorem test_urom_round7 : uromRound 7 =
    [0x10048CDB, 0x10159D7E, 0x1026AEC1, 0x1037BF39, 0x1005AF50, 0x1016BCF4, 0x10278D86, 0x10349E2A] := by decide

theorem test_urom_round8 : uromRound 8 =
    [0x10048C6F, 0x10159DE9, 0x1026AEB3, 0x1037BF08, 0x1005AFC2, 0x1016BCD7, 0x10278D14, 0x10349EA5] := by decide

theorem test_urom_round9 : uromRound 9 =
    [0x10048CA2, 0x10159D84, 0x1026AE76, 0x1037BF15, 0x1005AFFB, 0x1016BC9E, 0x10278D3C, 0x10349ED0] := by decide

/-! ### Word arithmetic (95 section 3.1) -/

theorem test_rotr32 : rotr32 0x12345678 16 = 0x56781234 ∧ rotr32 0x12345678 12 = 0x67812345 ∧
    rotr32 0x12345678 8 = 0x78123456 ∧ rotr32 0x12345678 7 = 0xF02468AC := by decide

/-! ### One step of each control word (95 section 3) -/

/-- 95 G9: the first G of "abc". -/
theorem test_g_abc : after (exec (.g 0 1 2 3 0 1)
      { armed with v := words [0x6B08E647, 0x510E527F, 0x6A09E667, 0x510E527C], m := words [0x00636261] }) State.v =
    some (words [0xD6C0C1DF, 0x7F898693, 0xDE856F07, 0xAB1F9B2C]) := by decide +kernel

/-- 95 G10: `v[i] = 01010101 * (i + 1)`; four slots change. -/
theorem test_g_four_slots : after (exec (.g 1 6 11 12 3 9)
      { armed with v := Vector.ofFn fun i => 0x01010101 * BitVec.ofNat 32 (i.val + 1),
                   m := ((words [] : Vector Word 16).set 3 0xDEADBEEF).set 9 0x01234567 })
      (fun t => (t.v[1], t.v[6], t.v[11], t.v[12], t.v[0], t.v[15])) =
    some (0x04E70DCE, 0x82A1BA13, 0x4CD009AE, 0x75CE12E7, 0x01010101, 0x10101010) := by decide +kernel

/-- 95 V3: the last block inverts word 14. -/
theorem test_vinit_final : after (exec .vinit { armed with h := words [0x6B08E647, 0xBB67AE85, 0x3C6EF372, 0xA54FF53A, 0x510E527F, 0x9B05688C, 0x1F83D9AB, 0x5BE0CD19], t0 := 3, f0 := true }) State.v =
    some (words [0x6B08E647, 0xBB67AE85, 0x3C6EF372, 0xA54FF53A, 0x510E527F, 0x9B05688C, 0x1F83D9AB, 0x5BE0CD19, 0x6A09E667, 0xBB67AE85, 0x3C6EF372, 0xA54FF53A, 0x510E527C, 0x9B05688C, 0xE07C2654, 0x5BE0CD19]) := by decide +kernel

/-- 95 V4: both counter words enter. -/
theorem test_vinit_counter : after (exec .vinit { armed with t0 := 0xFFFFFFC0, t1 := 1, f0 := true })
    (fun t => (t.v[12], t.v[13], t.v[14], t.v[15])) = some (0xAEF1ADBF, 0x9B05688D, 0xE07C2654, 0x5BE0CD19) := by decide +kernel

/-- 95 RD1. -/
theorem test_round_0 : after (exec (.round 0) { armed with v := words [0x6B08E647, 0xBB67AE85, 0x3C6EF372, 0xA54FF53A, 0x510E527F, 0x9B05688C, 0x1F83D9AB, 0x5BE0CD19, 0x6A09E667, 0xBB67AE85, 0x3C6EF372, 0xA54FF53A, 0x510E527C, 0x9B05688C, 0xE07C2654, 0x5BE0CD19], m := words [0x00636261] }) State.v =
    some (words [0x16A3242E, 0xD7B5E238, 0xCE8CE24B, 0x927AEDE1, 0xA7B430D9, 0x93A4A14E, 0xA44E7C31, 0x41D4759B, 0x95BF33D3, 0x9A99C181, 0x608A3A6B, 0xB666383E, 0x7A8DD50F, 0xBE378ED7, 0x353D1EE6, 0x3BB44C6B]) := by decide +kernel

/-- 95 RD2: the row of SIGMA matters. -/
theorem test_round_1 : after (exec (.round 1) { armed with v := words [0x16A3242E, 0xD7B5E238, 0xCE8CE24B, 0x927AEDE1, 0xA7B430D9, 0x93A4A14E, 0xA44E7C31, 0x41D4759B, 0x95BF33D3, 0x9A99C181, 0x608A3A6B, 0xB666383E, 0x7A8DD50F, 0xBE378ED7, 0x353D1EE6, 0x3BB44C6B], m := words [0x00636261] }) State.v =
    some (words [0x3AE30FE3, 0x0982A96B, 0xE88185B4, 0x3E339B16, 0xF24338CD, 0x0E66D326, 0xE005ED0C, 0xD591A277, 0x180B1F3A, 0xFCF43914, 0x30DB62D6, 0x4847831C, 0x7F00C58E, 0xFB847886, 0xC544E836, 0x524AB0E2]) := by decide +kernel

/-- 95 FO1. -/
theorem test_fold : after (exec .fold { armed with h := words [0x6B08E647, 0xBB67AE85, 0x3C6EF372, 0xA54FF53A, 0x510E527F, 0x9B05688C, 0x1F83D9AB, 0x5BE0CD19], v := words [0xD9C994AA, 0xCFEC3AA6, 0x700D0AB2, 0x2C38670E, 0xAF6A1F66, 0x1D023EF3, 0x1D9EC27D, 0x945357A5, 0x3E9FFEBD, 0x969FE811, 0xEF485E21, 0xA632797A, 0xDEEF082E, 0xAF3D80E1, 0x4E86829B, 0x4DEAFD3A] }) State.h =
    some (words [0x8C5E8C50, 0xE2147C32, 0xA32BA7E1, 0x2F45EB4E, 0x208B4537, 0x293AD69E, 0x4C9B994D, 0x82596786]) := by decide +kernel

/-- 95 F1: the compression of "abc". -/
theorem test_f_abc : after (exec .f { armed with h := words [0x6B08E647, 0xBB67AE85, 0x3C6EF372, 0xA54FF53A, 0x510E527F, 0x9B05688C, 0x1F83D9AB, 0x5BE0CD19], m := words [0x00636261], t0 := 3, f0 := true }) State.h =
    some (words [0x8C5E8C50, 0xE2147C32, 0xA32BA7E1, 0x2F45EB4E, 0x208B4537, 0x293AD69E, 0x4C9B994D, 0x82596786]) := by decide +kernel

/-- 95 F4: the high counter word enters. -/
theorem test_f_high_counter : after (exec .f { armed with h := words [0x6B08E647, 0xBB67AE85, 0x3C6EF372, 0xA54FF53A, 0x510E527F, 0x9B05688C, 0x1F83D9AB, 0x5BE0CD19], t1 := 1 }) State.h =
    some (words [0x59EEB13A, 0xB6843D0B, 0xA311973A, 0x0B4E4C44, 0x2DBC4FE3, 0xF7F3B7D2, 0x301B7CDD, 0x683606E7]) := by decide +kernel

/-- 95 I6: salt and personalization. -/
theorem test_init_salted : after (exec (.init 32 0) { armed with salt := octets [0x73, 0x61, 0x6C, 0x74, 0x73, 0x61, 0x6C, 0x74], pers := octets [0x70, 0x65, 0x72, 0x73, 0x6F, 0x6E, 0x61, 0x6C] })
    State.h = some (words [0x6B08E647, 0xBB67AE85, 0x3C6EF372, 0xA54FF53A, 0x2562330C, 0xEF6909FF, 0x6CF1BCDB, 0x3781A376]) := by decide +kernel

/-- 95 I5: the key block goes in front of the queue. -/
theorem test_init_keyed : after (exec (.init 32 1) { armed with key := octets [0x6B], inq := [0x61, 0x62, 0x63] })
    (fun t => (t.h[0], t.inq)) = some (0x6B08E747, 0x6B :: List.replicate 63 0 ++ [0x61, 0x62, 0x63]) := by decide +kernel

/-- 95 section 3.8, length 65: the first compression. -/
theorem test_absorb : after (exec .absorb { started (seqBytes 65) 0 0 with h := words [0x6B08E647, 0xBB67AE85, 0x3C6EF372, 0xA54FF53A, 0x510E527F, 0x9B05688C, 0x1F83D9AB, 0x5BE0CD19] }) (fun t => (t.h, t.inq, t.t0)) =
    some (words [0x69B86EDC, 0x9C74BB75, 0x25BD102E, 0x83F24029, 0x9A9D32C1, 0xA02250BB, 0x3AA0A774, 0xE4B93E1D], [0x40], 64) := by decide +kernel

/-- 95 section 3.8: the carry into `t1`. -/
theorem test_absorb_carry : after (exec .absorb (started (seqBytes 65) 0 0xFFFFFFC0)) (fun t => (t.t1, t.t0)) = some (1, 0) := by
  decide +kernel

/-- 95 section 3.8, length 65: the final compression, zero-padded. -/
theorem test_final : after (exec (.final 1)
      { started [0x40] 0 64 with h := words [0x69B86EDC, 0x9C74BB75, 0x25BD102E, 0x83F24029, 0x9A9D32C1, 0xA02250BB, 0x3AA0A774, 0xE4B93E1D] })
      (fun t => (t.h, t.t0, t.phase)) =
    some (words [0x94EE531B, 0x4B4EF3AA, 0xDE489D15, 0x067F2C35, 0x0EA4D061, 0x0B5AF9DF, 0x09B43916, 0x7244970E], 65, .final) := by decide +kernel

/-- 95 section 3.8: FINAL 40 carries. -/
theorem test_final_carry : after (exec (.final 40) (started (seqBytes 40) 0 0xFFFFFFE0)) (fun t => (t.t1, t.t0)) = some (1, 8) := by
  decide +kernel

/-- 95 E3. -/
theorem test_extract : after (exec .extract { finished 5 with h := words [0x8C5E8C50, 0xE2147C32, 0xA32BA7E1, 0x2F45EB4E, 0x208B4537, 0x293AD69E, 0x4C9B994D, 0x82596786] }) (fun t => (t.digestOut, t.phase)) =
    some (some [0x50, 0x8C, 0x5E, 0x8C, 0x32], .idle) := by decide +kernel

/-- 95 X20: key, salt and personalization, a 20-byte digest, from reset. -/
theorem test_hash_full : after (step ((requesting (seqBytes 16) [0x01, 0x02, 0x03, 0x04, 0x05, 0x06, 0x07, 0x08] [0xF1, 0xF2, 0xF3, 0xF4, 0xF5, 0xF6, 0xF7, 0xF8]
      [0x61, 0x62, 0x63]).withFetchWord 32 0xA0881014)) State.response =
    some (some ⟨0, some [0x81, 0x3D, 0x05, 0x56, 0x1A, 0xED, 0x72, 0x52, 0x46, 0x78, 0x55, 0x1A, 0xEE, 0xED, 0x63, 0x61, 0x44, 0xF4, 0x8D, 0x2A]⟩) := by
  decide +kernel

/-- 95 ER7: two lengths illegal, the lowest code. -/
theorem test_hash_lowest_code : after (step (State.reset.withFetchWord 32 0xA0902120)) (fun t => (t.status, t.response)) =
    some (2, some ⟨2, none⟩) := by decide +kernel

/-- 95 X2: "abc" from reset. -/
theorem test_hash256_abc : after (step ((requesting [] [] [] [0x61, 0x62, 0x63]).withFetchWord 32 0xB0000000)) State.response =
    some (some ⟨0, some [0x50, 0x8C, 0x5E, 0x8C, 0x32, 0x7C, 0x14, 0xE2, 0xE1, 0xA7, 0x2B, 0xA3, 0x4E, 0xEB, 0x45, 0x2F, 0x37, 0x45, 0x8B, 0x20, 0x9E, 0xD6, 0x3A, 0x29, 0x4D, 0x99, 0x9B, 0x4C, 0x86, 0x67, 0x59, 0x82]⟩) := by
  decide +kernel

/-- 95 X22: three blocks. -/
theorem test_hash256_three_blocks : after (step ((requesting [] [] [] (seqBytes 129)).withFetchWord 32 0xB0000000)) State.response =
    some (some ⟨0, some [0x5B, 0xD1, 0x69, 0xE6, 0x7C, 0x82, 0xC2, 0xC2, 0xE9, 0x8E, 0xF7, 0x00, 0x8B, 0xDF, 0x26, 0x1F, 0x2D, 0xDF, 0x30, 0xB1, 0xC0, 0x0F, 0x9E, 0x7F, 0x27, 0x5B, 0xB3, 0xE8, 0xA2, 0x8D, 0xC9, 0xA2]⟩) := by
  decide +kernel

/-- R187: EXTRACT at the port of an idle core. -/
theorem test_extract_idle : after (step (State.reset.withFetchWord 32 0x90000000)) State.status = some 6 := by decide +kernel

/-! ### Witnesses: a state and operands that meet the hypotheses of each obligation -/

/-- ResetSignalEntersRestState: a state for each clause, the second one within an invocation. -/
theorem test_witness_ResetSignalEntersRestState : ({ armed with resetPin := true } : State).resetPin = true ∧
    (started [] 0 0).phase = .continuing ∧ (started [] 0 0).resetPin = false ∧ (started [] 0 0).pending = false := by decide

theorem test_witness_StepRunsWaitingWord : (State.reset.withFetchWord 32 0x80000040).resetPin = false ∧
    (State.reset.withFetchWord 32 0x80000040).pending = true ∧
    decode (State.reset.withFetchWord 32 0x80000040).request.cw = .ok (.final 64) := by decide

theorem test_witness_IllegalWordRaises : (State.reset.withFetchWord 32 0x4000000A).resetPin = false ∧
    (State.reset.withFetchWord 32 0x4000000A).pending = true ∧
    ∀ i, decode (State.reset.withFetchWord 32 0x4000000A).request.cw ≠ .ok i := by
  refine ⟨by decide, by decide, fun i h => ?_⟩
  rw [show decode (State.reset.withFetchWord 32 0x4000000A).request.cw = .error .roundOutOfRange by decide] at h
  cases h

theorem test_witness_ExactlyLegalWordsDecode : (State.reset.withFetchWord 32 0).resetPin = false ∧
    (State.reset.withFetchWord 32 0).pending = true ∧ ¬ LegalWord (State.reset.withFetchWord 32 0).request.cw := by
  unfold LegalWord
  decide

theorem test_witness_DecodeOfEncode : wellFormed (.g 15 0 1 14 15 0) = true ∧ wellFormed (.round 9) = true ∧
    wellFormed (.final 64) = true ∧ wellFormed (.hash 255 255 15 15) = true := by decide

theorem test_witness_EncodeOfDecode : decode 0x80000040 = .ok (.final 64) ∧ decode 0x6000FFFF = .ok (.init 255 255) := by
  decide

/-- GRunsItsEightLines, GTouchesFourSlots, RoundIsEightG, RoundComputesRoundFn. -/
theorem test_witness_mixing : [0, 5, 10, (15 : Index)].Pairwise (· ≠ ·) ∧ armed.written.v = true ∧ armed.written.m = true := by
  decide

theorem test_witness_GWithEqualIndicesIsIllegal : ¬ [0, 5, 10, (0 : Index)].Pairwise (· ≠ ·) := by decide

theorem test_witness_GNeverCollides : [0, 5, 10, (15 : Index)].Pairwise (· ≠ ·) ∧ armed.written = armed.written ∧
    armed.written.v = true ∧ armed.written.m = true ∧ armed.m = armed.m ∧
    (after (exec (.g 0 5 10 15 1 2) armed) State.v).isSome = true := by decide +kernel

theorem test_witness_DisjointGCommute : [0, 4, 8, 12, 1, 5, 9, (13 : Index)].Pairwise (· ≠ ·) ∧ armed.written.v = true ∧
    armed.written.m = true := by decide

theorem test_witness_RotationMovesBits : (rotr32 0x80000001 1).getLsbD 31 = true ∧ (rotr32 0x80000001 31).getLsbD 1 = true := by
  decide

theorem test_witness_RoundOutOfRange : 9 < (10 : Index).toNat := by decide

/-- VinitBuildsWorkingVector, FoldFoldsBothHalves, FIsVinitTenRoundsFold, FComputesCompression. -/
theorem test_witness_compression : armed.written.h = true ∧ armed.written.v = true ∧ armed.written.m = true ∧
    armed.written.t = true ∧ armed.written.f0 = true := by decide

/-- MicroprogramIsStraightLine: the first and the last position, the return to 0, and a state F completes from. -/
theorem test_witness_MicroprogramIsStraightLine : (microRun 0 armed).pc.toNat = 0 ∧ (microRun 81 armed).pc.toNat = 81 ∧
    (microRun 82 armed).pc = 0 ∧ (microStep { armed with pc := 81 }).pc.toNat ≤ 81 ∧
    (after (exec .f armed) State.pc) = some 0 := by decide +kernel

/-- InitBuildsInitialState at both ends of the lengths, without and with a key. -/
theorem test_witness_InitBuildsInitialState : armed.phase = .idle ∧ 1 ≤ (1 : Byte).toNat ∧ (1 : Byte).toNat ≤ 32 ∧
    1 ≤ (32 : Byte).toNat ∧ (32 : Byte).toNat ≤ 32 ∧ ¬ 0 < (0 : Byte).toNat ∧ armed.written.salt = true ∧
    armed.written.pers = true ∧ armed.written.key = true := by decide

/-- InitRejectsIllegalLengths and LengthErrorsComeFirst: each clause at its boundary. -/
theorem test_witness_illegal_lengths : State.reset.phase = .idle ∧ (0 : Byte).toNat < 1 ∧ 32 < (33 : Byte).toNat ∧
    1 ≤ (32 : Byte).toNat ∧ (32 : Byte).toNat ≤ 32 ∧ 8 < (9 : Index).toNat ∧ (8 : Index).toNat ≤ 8 := by decide

/-- InitNeedsWrittenParameters: nothing written, and all but the key written. -/
theorem test_witness_InitNeedsWrittenParameters : State.reset.phase = .idle ∧ State.reset.written.salt = false ∧
    State.reset.written.pers = false ∧ 0 < (1 : Byte).toNat ∧
    ({ armed with written := { armed.written with key := false } } : State).written.key = false := by decide

theorem test_witness_KeyBlockAloneIsFinal : armed.phase = .idle ∧ 0 < (32 : Byte).toNat ∧ (32 : Byte).toNat ≤ 32 ∧
    armed.written.salt = true ∧ armed.written.pers = true ∧ armed.written.key = true ∧ armed.inq = [] := by decide

theorem test_witness_AbsorbCompressesOneBlock : (started (seqBytes 65) 0 0).phase = .continuing ∧
    64 < (started (seqBytes 65) 0 0).inq.length ∧ counter (started (seqBytes 65) 0 0) + 64 < 2 ^ 64 := by decide

/-- FinalCompressesLastBlock with nothing left and with a full block left. -/
theorem test_witness_FinalCompressesLastBlock : (started [] 0 0).phase = .continuing ∧
    (0 : BitVec 7).toNat = (started [] 0 0).inq.length ∧ (64 : BitVec 7).toNat = (started (seqBytes 64) 0 0).inq.length ∧
    (64 : BitVec 7).toNat ≤ 64 ∧ counter (started (seqBytes 64) 0 0) + (64 : BitVec 7).toNat < 2 ^ 64 := by decide

/-- CounterCarriesIntoHighWord: a step on each side of the last counter value that fits. -/
theorem test_witness_CounterCarriesIntoHighWord :
    (after (exec .absorb (started (seqBytes 65) 0xFFFFFFFF 0xFFFFFFBF)) State.t0).isSome = true ∧
    (after (exec (.final 0) (started [] 0xFFFFFFFF 0xFFFFFFFF)) State.t0).isSome = true ∧
    2 ^ 64 ≤ counter (started (seqBytes 65) 0xFFFFFFFF 0xFFFFFFC0) + 64 ∧
    2 ^ 64 ≤ counter (started [0] 0xFFFFFFFF 0xFFFFFFFF) + (1 : BitVec 7).toNat := by decide +kernel

/-- InputTakesItsBlocksInOrder: an empty input and one of three blocks. -/
theorem test_witness_InputTakesItsBlocksInOrder : (started [] 0 0).phase = .continuing ∧ (started [] 0 0).f0 = false ∧
    counter (started (seqBytes 129) 0 0) + (started (seqBytes 129) 0 0).inq.length < 2 ^ 64 := by decide +kernel

/-- BufferAccessesAreAlignedWords: the last defined address of each buffer and the first refused ones. -/
theorem test_witness_BufferAccessesAreAlignedWords : (memRead (octets []) 60 4).isSome = true ∧
    memRead (octets []) 64 4 = none ∧ memRead (octets []) 2 4 = none ∧ memRead (octets []) 0 1 = none ∧
    (memWrite (octets []) 28 4 0).isSome = true ∧ memWrite (octets []) 32 4 0 = none := by decide

/-- ExtractSerializesState, SecondExtractIsProtocolError. -/
theorem test_witness_extract : (finished 32).phase = .final := by decide

/-- HashAnswersItsDigest at the upper ends of the lengths, Hash256IsDefaultHash. -/
theorem test_witness_HashAnswersItsDigest : State.reset.phase = .idle ∧ (32 : Byte).toNat ≤ 32 ∧ (8 : Index).toNat ≤ 8 ∧
    inputLength 32 State.reset ≤ Config.maxInput ∧ State.reset.request.msg.length ≤ Config.maxInput := by decide

theorem test_witness_TooLongInputIsRefused : ∃ s : State, s.phase = .idle ∧
    (if (1 : Byte).toNat = 0 then 0 else 64) + s.request.msg.length > Config.maxInput := by
  refine ⟨requesting [] [] [] (List.replicate (2 ^ 64) 0), by decide, ?_⟩
  simp only [requesting, List.length_replicate, Config.maxInput]
  decide

/-- ResponseDependsOnRequestAlone: reset, and a core with other contents. -/
theorem test_witness_ResponseDependsOnRequestAlone :
    (State.reset.withFetchWord 32 0xB0000000).request =
      (({ armed with h := words [1], status := 5 } : State).withFetchWord 32 0xB0000000).request ∧
    State.reset.phase = .idle ∧ armed.phase = .idle ∧ (State.reset.withFetchWord 32 0xB0000000).pending = true ∧
    (State.reset.withFetchWord 32 0xB0000000).resetPin = false ∧
    decode (State.reset.withFetchWord 32 0xB0000000).request.cw = .ok .hash256 := by decide

/-- BytesBeyondLengthsAreIgnored with fields that do differ beyond their lengths. -/
theorem test_witness_BytesBeyondLengthsAreIgnored :
    (∀ j : Fin 32, j.val < (1 : Byte).toNat → (octets [0x6B, 0xFF] : Vector Byte 32)[j] = (requesting [0x6B] [1] [] []).request.keyD[j]) ∧
    (∀ j : Fin 8, j.val < (1 : Index).toNat → (octets [1, 2] : Vector Byte 8)[j] = (requesting [0x6B] [1] [] []).request.saltD[j]) ∧
    (∀ j : Fin 8, j.val < (0 : Index).toNat → (octets [3] : Vector Byte 8)[j] = (requesting [0x6B] [1] [] []).request.persD[j]) := by
  decide

/-- ProtocolErrorsAreRaised: a state for each clause. -/
theorem test_witness_ProtocolErrorsAreRaised : (started [] 0 0).phase ≠ .idle ∧ armed.phase ≠ .continuing ∧
    (started (seqBytes 64) 0 0).inq.length ≤ 64 ∧ (3 : BitVec 7).toNat ≠ (started (seqBytes 4) 0 0).inq.length ∧
    armed.phase ≠ .final ∧ State.reset.written = Written.none ∧ State.reset.phase = .idle ∧
    (after (exec .hash256 State.reset) State.status).isSome = true := by decide +kernel

/-- ExceptionsWriteOnlyStatus, PhaseTransitionsAreComplete, ControlWordsKeepTheirFrames: a next state of each control word. -/
theorem test_witness_next_states :
    [after (exec (.g 0 4 8 12 5 5) armed) State.phase, after (exec .vinit armed) State.phase,
      after (exec .fold armed) State.phase, after (exec (.round 9) armed) State.phase, after (exec .f armed) State.phase,
      after (exec (.init 32 0) armed) State.phase] =
    [some .idle, some .idle, some .idle, some .idle, some .idle, some .continuing] ∧
    [after (exec .absorb (started (seqBytes 65) 0 0)) State.phase, after (exec (.final 4) (started (seqBytes 4) 0 0)) State.phase,
      after (exec .extract (finished 1)) State.phase, after (exec (.hash 1 0 0 0) armed) State.phase,
      after (exec .hash256 armed) State.phase] =
    [some .continuing, some .final, some .idle, some .idle, some .idle] := by decide +kernel

/-- StepKeepsInvariant: the invariant holds of a started invocation too, and that state steps. -/
theorem test_witness_StepKeepsInvariant : Inv (started (seqBytes 65) 0 0) ∧
    (after (step ((started (seqBytes 65) 0 0).withFetchWord 32 0x70000000)) State.status) = some 0 := by
  refine ⟨?_, by decide +kernel⟩
  constructor
  · decide
  · decide
  · decide
  · exact fun _ => by decide
  · exact fun h => absurd h (by decide)
  · exact fun _ => by decide
  · exact fun _ => by decide
  · exact fun h => absurd h (by decide)
  · exact fun r h => absurd h (by simp [started, armed, State.reset])

end Sys2Proof.Tests
end

/-! PROOFS, family 10_state: laws of ProtocolError on unwritten registers (R187), of the last-node flag (R14) and of the
core invariant (R20 to R24), and the obligations they settle. -/

/-! ### Words that read a register never written since reset (R27, R187) -/

namespace Sys2Proof.Machine

open Sys2Proof.Safety

/-- ProtocolError at the end of a control word is R184's entry with code 6. -/
theorem conclude_protocolError (s : State) :
    (Result.raised .protocolError s).conclude = .next (afterException 6 s) := rfl

theorem not_mixReadable_of_unwritten {s : State} (h : s.written.v = false ∨ s.written.m = false) :
    ¬ mixReadable s = true := by
  simpa [mixReadable, not_and_or, -not_and] using h

theorem exec_vinit_of_unwritten {s : State}
    (h : s.written.h = false ∨ s.written.t = false ∨ s.written.f0 = false) :
    exec .vinit s = .next (afterException 6 s) := by
  rw [exec, execVinit, if_neg (by simpa [not_and_or, -not_and, or_assoc] using h), conclude_protocolError]

theorem exec_fold_of_unwritten {s : State} (h : s.written.h = false ∨ s.written.v = false) :
    exec .fold s = .next (afterException 6 s) := by
  rw [exec, execFold, if_neg (by simpa [not_and_or, -not_and] using h), conclude_protocolError]

theorem exec_f_of_unwritten {s : State}
    (h : s.written.h = false ∨ s.written.m = false ∨ s.written.t = false ∨ s.written.f0 = false) :
    exec .f s = .next (afterException 6 s) := by
  rw [exec, execF, if_neg (by simpa [not_and_or, -not_and, or_assoc] using h), conclude_protocolError]

theorem exec_round_of_unwritten {r : Index} {s : State} (hr : r.toNat ≤ 9)
    (h : s.written.v = false ∨ s.written.m = false) : exec (.round r) s = .next (afterException 6 s) := by
  rw [exec, execRound, dif_pos (Nat.lt_succ_of_le hr), if_neg (not_mixReadable_of_unwritten h), conclude_protocolError]

/-- The operand check of G as the pairwise difference of its four indices (R84). -/
theorem distinctIndices_of_pairwise {a b c d : Index} (h : [a, b, c, d].Pairwise (· ≠ ·)) :
    distinctIndices a b c d = true := by
  rw [distinctIndices_iff]
  simpa [and_assoc] using h

theorem exec_g_of_unwritten {a b c d sx sy : Index} {s : State} (hi : distinctIndices a b c d = true)
    (h : s.written.v = false ∨ s.written.m = false) :
    exec (.g a b c d sx sy) s = .next (afterException 6 s) := by
  rw [exec, execG, if_pos hi, if_neg (not_mixReadable_of_unwritten h), conclude_protocolError]

theorem not_initReadable_of_unwritten {k : Byte} {s : State}
    (h : s.written.salt = false ∨ s.written.pers = false ∨ (0 < k.toNat ∧ s.written.key = false)) :
    ¬ initReadable k s = true := by
  rcases h with h | h | ⟨hk, h⟩
  · simp [initReadable, h]
  · simp [initReadable, h]
  · simp [initReadable, h, Nat.pos_iff_ne_zero.1 hk]

/-- A legal INIT on parameters never written since reset (log entry 6). -/
theorem exec_init_of_unwritten {n k : Byte} {s : State} (h0 : s.phase = .idle) (hl : initLengthError n k = none)
    (hr : ¬ initReadable k s = true) : exec (.init n k) s = .next (afterException 6 s) := by
  simp only [exec, execInit, initState, if_pos h0, hl, if_neg hr, conclude_protocolError]

end Sys2Proof.Machine

/-! ### The last-node flag (R14, D6) -/

namespace Sys2Proof.Machine

/-- The state with the last-node flag set to `b`. -/
def setLastNode (b : Bool) (s : State) : State := { s with f1 := b }

/-- The result of a control word with `g` applied to the state it carries. -/
def Result.mapState (g : State → State) : Result → Result
  | .done s => .done (g s)
  | .raised c s => .raised c (g s)
  | .refused r => .refused r

/-- The outcome of a step with `g` applied to the next state. -/
def mapNext (g : State → State) : Host.Outcome State Fault Refusal → Host.Outcome State Fault Refusal
  | .next s => .next (g s)
  | .fault f => .fault f
  | .refused r => .refused r

/-- A condition that does not look at the flag carries the setting of the flag through both branches. -/
theorem mapState_ite {g : State → State} (p : Prop) [Decidable p] (r r' : Result) :
    (if p then r else r').mapState g = if p then r.mapState g else r'.mapState g :=
  apply_ite _ p r r'

theorem conclude_setLastNode (b : Bool) (r : Result) :
    (r.mapState (setLastNode b)).conclude = mapNext (setLastNode b) r.conclude := by
  cases r <;> rfl

theorem andThen_setLastNode {b : Bool} {k : State → Result}
    (hk : ∀ s, k (setLastNode b s) = (k s).mapState (setLastNode b)) (r : Result) :
    (r.mapState (setLastNode b)).andThen k = (r.andThen k).mapState (setLastNode b) := by
  cases r with
  | done s => exact hk s
  | raised c s => rfl
  | refused e => rfl

/-! #### F -/

theorem runMicro_setLastNode (b : Bool) (op : MicroOp) (s : State) :
    runMicro op (setLastNode b s) = setLastNode b (runMicro op s) := by
  cases op <;> rfl

theorem runOps_setLastNode (b : Bool) (ops : List MicroOp) (s : State) :
    runOps ops (setLastNode b s) = setLastNode b (runOps ops s) := by
  induction ops generalizing s with
  | nil => rfl
  | cons op ops ih => rw [runOps_cons, runOps_cons, runMicro_setLastNode, ih]

theorem roundSteps_setLastNode (b : Bool) (r : Fin 10) (s : State) :
    roundSteps r (setLastNode b s) = setLastNode b (roundSteps r s) := by
  rw [roundSteps_eq_runOps, roundSteps_eq_runOps, runOps_setLastNode]

theorem compress_setLastNode (b : Bool) (s : State) :
    compress (setLastNode b s) = setLastNode b (compress s) := by
  rw [compress_eq_ops, compress_eq_ops, runOps_setLastNode]
  rfl

/-! #### The states of an invocation -/

theorem absorbState_setLastNode (b : Bool) (s : State) :
    absorbState (setLastNode b s) = (absorbState s).mapState (setLastNode b) := by
  have e : absorbed (setLastNode b s) = setLastNode b (absorbed s) :=
    compress_setLastNode b (advanceCounter 64 (takeBlock 64 s))
  simp only [absorbState, mapState_ite, e]
  rfl

theorem finalState_setLastNode (b : Bool) (len : Nat) (s : State) :
    finalState len (setLastNode b s) = (finalState len s).mapState (setLastNode b) := by
  have e : finalized len (setLastNode b s) = setLastNode b (finalized len s) :=
    compress_setLastNode b (setLastBlock true { advanceCounter len (takeBlock len s) with phase := .final })
  simp only [finalState, mapState_ite, e]
  rfl

theorem absorbWhile_setLastNode (b : Bool) (fuel : Nat) (s : State) :
    absorbWhile fuel (setLastNode b s) = (absorbWhile fuel s).mapState (setLastNode b) := by
  induction fuel generalizing s with
  | zero => rfl
  | succ fuel ih =>
    simp only [absorbWhile, mapState_ite, absorbState_setLastNode, andThen_setLastNode ih]
    rfl

theorem pipeline_setLastNode (b : Bool) (s : State) :
    pipeline (setLastNode b s) = (pipeline s).mapState (setLastNode b) := by
  have hfinal : ∀ u : State, finalState (setLastNode b u).inq.length (setLastNode b u) =
      (finalState u.inq.length u).mapState (setLastNode b) := fun u => finalState_setLastNode b u.inq.length u
  rw [pipeline, pipeline, absorbWhile_setLastNode]
  exact andThen_setLastNode hfinal _

theorem initState_setLastNode (b : Bool) (n k : Byte) (s : State) :
    initState n k (setLastNode b s) = (initState n k s).mapState (setLastNode b) := by
  cases e : initLengthError n k with
  | some c => simp only [initState, e, mapState_ite]; rfl
  | none => simp only [initState, e, mapState_ite]; rfl

theorem extractState_setLastNode (b : Bool) (s : State) :
    extractState (setLastNode b s) = (extractState s).mapState (setLastNode b) := by
  rw [extractState, extractState, mapState_ite]
  rfl

theorem invocation_setLastNode (b : Bool) (n klen : Byte) (s : State) :
    invocation n klen (setLastNode b s) = (invocation n klen s).mapState (setLastNode b) := by
  have hrespond : ∀ u : State, Result.done (respond n.toNat (setLastNode b u)) =
      (Result.done (respond n.toNat u)).mapState (setLastNode b) := fun _ => rfl
  rw [invocation, invocation, initState_setLastNode, andThen_setLastNode (pipeline_setLastNode b),
    andThen_setLastNode (extractState_setLastNode b), andThen_setLastNode hrespond]

theorem hashState_setLastNode (b : Bool) (n klen : Byte) (slen plen : Index) (s : State) :
    hashState n klen slen plen (setLastNode b s) = (hashState n klen slen plen s).mapState (setLastNode b) := by
  have e := invocation_setLastNode b n klen (loadRequest klen.toNat slen.toNat plen.toNat s)
  cases he : hashLengthError n klen slen plen with
  | some c => simp only [hashState, he, mapState_ite]; rfl
  | none => simp only [hashState, he, mapState_ite, ← e]; rfl

/-! #### Every control word -/

/-- Setting the flag before a control word or after it is the same (D6). -/
theorem exec_setLastNode (b : Bool) (i : Instr) (s : State) :
    exec i (setLastNode b s) = mapNext (setLastNode b) (exec i s) := by
  cases i with
  | g a b' c d sx sy =>
    simp only [exec, execG, ← conclude_setLastNode, mapState_ite]; rfl
  | vinit => simp only [exec, execVinit, ← conclude_setLastNode, mapState_ite]; rfl
  | fold => simp only [exec, execFold, ← conclude_setLastNode, mapState_ite]; rfl
  | round r =>
    by_cases hr : r.toNat < 10
    · simp only [exec, execRound, dif_pos hr, ← conclude_setLastNode, mapState_ite, roundSteps_setLastNode]; rfl
    · simp only [exec, execRound, dif_neg hr]; rfl
  | f => simp only [exec, execF, ← conclude_setLastNode, mapState_ite, compress_setLastNode]; rfl
  | init n k => simp only [exec, execInit, initState_setLastNode, conclude_setLastNode]
  | absorb => simp only [exec, execAbsorb, absorbState_setLastNode, conclude_setLastNode]
  | final len =>
    simp only [exec, execFinal, finalState_setLastNode, ← conclude_setLastNode, mapState_ite]; rfl
  | extract => simp only [exec, execExtract, extractState_setLastNode, conclude_setLastNode]
  | hash n klen slen plen => simp only [exec, execHash, hashState_setLastNode, conclude_setLastNode]
  | hash256 => simp only [exec, execHash256, hashState_setLastNode, conclude_setLastNode]

/-- A control word's effect leaves the flag as it is (R14). -/
theorem Effect.f1_eq {i : Instr} {s t : State} (h : Effect i s t) : t.f1 = s.f1 := by
  cases i with
  | g a b c d sx sy => obtain ⟨rfl, -⟩ := h; simp
  | vinit => obtain ⟨rfl, -⟩ := h; simp
  | fold => obtain ⟨rfl, -⟩ := h; simp
  | round r => obtain ⟨hr, rfl, -⟩ := h; rw [roundSteps_frame]
  | f => obtain ⟨rfl, -⟩ := h; simp
  | init n k => obtain ⟨rfl, -⟩ := h; simp [initialized]
  | absorb => obtain ⟨rfl, -⟩ := h; rw [absorbed_frame]
  | final len => obtain ⟨rfl, -, hq, -⟩ := h; rw [finalized_frame hq]
  | extract => obtain ⟨rfl, -⟩ := h; simp [extracted]
  | hash n klen slen plen => obtain ⟨-, u, rfl, -, -, hf1, -⟩ := h; simpa [extracted] using hf1
  | hash256 => obtain ⟨-, u, rfl, -, -, hf1, -⟩ := h; simpa [extracted] using hf1

/-- No control word writes the flag (R14). -/
theorem exec_next_f1 {i : Instr} {s t : State} (h : exec i s = .next t) : t.f1 = s.f1 := by
  rcases exec_cases h with ⟨c, rfl⟩ | he
  · simp
  · exact he.f1_eq

end Sys2Proof.Machine

/-! ### The core invariant (R20 to R24) -/

namespace Sys2Proof.Machine

/-- Every register marked in `w` is marked in `w'`: no control word but reset takes a mark away (R187). -/
def Written.Grows (w w' : Written) : Prop :=
  (w.v = true → w'.v = true) ∧ (w.m = true → w'.m = true) ∧ (w.h = true → w'.h = true) ∧
  (w.t = true → w'.t = true) ∧ (w.f0 = true → w'.f0 = true) ∧ (w.key = true → w'.key = true) ∧
  (w.salt = true → w'.salt = true) ∧ (w.pers = true → w'.pers = true)

theorem Written.Grows.refl (w : Written) : w.Grows w := by simp [Written.Grows]

/-- The word computes within a phase: it may write the working registers, the block, the counter and the queue, leaves
`pc` at 0, takes no input once the final block is done and takes no mark away. -/
structure WorksWithinPhase (s t : State) : Prop where
  frame : t = { s with v := t.v, h := t.h, m := t.m, t0 := t.t0, t1 := t.t1, B := t.B, inq := t.inq, pc := t.pc,
                       written := t.written, draws := t.draws }
  pc_zero : t.pc = 0
  inq_final : s.phase = .final → t.inq = s.inq
  grows : s.written.Grows t.written

theorem mix_worksWithinPhase (a b c d sx sy : Index) {s : State} (h : s.pc = 0) :
    WorksWithinPhase s (mix a b c d sx sy s) where
  frame := by simp only [mix]
  pc_zero := by simpa using h
  inq_final _ := by simp
  grows := by simpa using Written.Grows.refl _

theorem vinit_worksWithinPhase {s : State} (h : s.pc = 0) : WorksWithinPhase s (vinit s) where
  frame := by simp only [vinit]
  pc_zero := by simpa using h
  inq_final _ := by simp
  grows := by simp [Written.Grows]

theorem fold_worksWithinPhase {s : State} (h : s.pc = 0) : WorksWithinPhase s (fold s) where
  frame := by simp only [fold, releaseWorking]
  pc_zero := by simpa using h
  inq_final _ := by simp
  grows := by simpa using Written.Grows.refl _

theorem roundSteps_worksWithinPhase (r : Fin 10) {s : State} (h : s.pc = 0) :
    WorksWithinPhase s (roundSteps r s) where
  frame := by rw [roundSteps_frame]
  pc_zero := by rw [roundSteps_frame]; exact h
  inq_final _ := by rw [roundSteps_frame]
  grows := by rw [roundSteps_frame]; exact Written.Grows.refl _

theorem compress_worksWithinPhase (s : State) : WorksWithinPhase s (compress s) where
  frame := by rw [compress_frame]
  pc_zero := compress_pc s
  inq_final _ := compress_inq s
  grows := by simp [Written.Grows]

theorem absorbed_worksWithinPhase {s : State} (h : s.phase = .continuing) : WorksWithinPhase s (absorbed s) where
  frame := by rw [absorbed_frame]
  pc_zero := by rw [absorbed_frame]
  inq_final hf := by rw [h] at hf; cases hf
  grows := by rw [absorbed_frame]; simp [Written.Grows]

end Sys2Proof.Machine

namespace Sys2Proof.Safety

open Sys2Proof.Machine

/-- In phase IDLE the invariant speaks of `pc`, `f1`, `status` and the response alone. -/
theorem Inv.of_idle {s : State} (hphase : s.phase = .idle) (hpc : s.pc = 0) (hf1 : s.f1 = false)
    (hstatus : s.status.toNat ≤ 6)
    (hresponse : ∀ r, s.response = some r → r.status = s.status ∧ (r.digest.isSome ↔ r.status = 0)) : Inv s where
  pc_zero := hpc
  f1_zero := hf1
  status_code := hstatus
  continuing_f0 h := by rw [hphase] at h; cases h
  final_f0 h := by rw [hphase] at h; cases h
  lengths h := absurd hphase h
  written_h h := absurd hphase h
  written_m h := by rw [hphase] at h; cases h
  response_status := hresponse

theorem inv_reset : Inv State.reset :=
  .of_idle rfl rfl rfl (by decide) fun _ h => nomatch h

theorem inv_resetCore {s : State} (hs : Inv s) : Inv (resetCore s) :=
  .of_idle (by simp) (by simp) (by simpa using hs.f1_zero) (by simp) (by simp)

/-- Taking the request clears the response and nothing else the invariant speaks of. -/
theorem inv_accept {s : State} (hs : Inv s) : Inv (accept s) := by
  obtain ⟨hpc, hf1, hstatus, hcont, hfinal, hlengths, hwritten, hwrittenM, -⟩ := hs
  constructor
  case response_status => simp
  all_goals simpa

/-- An exception writes a code of R181 to `status` and answers with it, without a digest (R184). -/
theorem inv_takeException (c : Cause) {s : State} (hs : Inv s) : Inv (takeException c s) := by
  obtain ⟨hpc, hf1, -, hcont, hfinal, hlengths, hwritten, hwrittenM, -⟩ := hs
  have hcode : ¬ c.code = 0#8 := by cases c <;> decide
  constructor
  case status_code => simpa using code_toNat_le c
  case response_status => simp [hcode]
  all_goals simpa

/-- A word that computes within a phase keeps the invariant. -/
theorem inv_of_worksWithinPhase {s t : State} (hs : Inv s) (h : WorksWithinPhase s t) : Inv t := by
  obtain ⟨hframe, hpc, hinq, hv, hm, hh, ht, hf0, -⟩ := h
  have ephase : t.phase = s.phase := by rw [hframe]
  have ef0 : t.f0 = s.f0 := by rw [hframe]
  have estatus : t.status = s.status := by rw [hframe]
  constructor
  case pc_zero => exact hpc
  case f1_zero => rw [hframe]; exact hs.f1_zero
  case status_code => rw [estatus]; exact hs.status_code
  case continuing_f0 => rw [ephase, ef0]; exact hs.continuing_f0
  case final_f0 =>
    rw [ephase, ef0]
    exact fun hp => ⟨(hs.final_f0 hp).1, (hinq hp).trans (hs.final_f0 hp).2⟩
  case lengths => rw [hframe]; exact hs.lengths
  case written_h =>
    rw [ephase]
    exact fun hp => (hs.written_h hp).imp hh (And.imp ht hf0)
  case written_m =>
    rw [ephase]
    exact fun hp => (hs.written_m hp).imp hm hv
  case response_status =>
    rw [estatus, show t.response = s.response by rw [hframe]]
    exact hs.response_status

/-- INIT starts an invocation with legal lengths, `f0` clear and what F reads but `m` written (R113 to R117). -/
theorem inv_initialized {n k : Byte} {s : State} (hs : Inv s) (hl : initLengthError n k = none) :
    Inv (initialized n k s) := by
  have hlengths := (initLengthError_eq_none n k).1 hl
  obtain ⟨hpc, hf1, hstatus, -, -, -, -, -, hresponse⟩ := hs
  constructor
  case continuing_f0 | final_f0 | written_h | written_m => simp [initialized]
  all_goals simpa [initialized]

/-- FINAL consumes the input, sets `f0` and leaves everything F reads written (R132). -/
theorem inv_finalized {len : Nat} {s : State} (hs : Inv s) (hp : s.phase = .continuing) (hq : len = s.inq.length) :
    Inv (finalized len s) := by
  have hidle : s.phase ≠ .idle := by rw [hp]; decide
  have hlengths := hs.lengths hidle
  obtain ⟨hh, -, -⟩ := hs.written_h hidle
  obtain ⟨-, hf1, hstatus, -, -, -, -, -, hresponse⟩ := hs
  rw [finalized_frame hq]
  constructor
  case pc_zero | continuing_f0 | final_f0 | written_m => simp
  all_goals simpa

/-- EXTRACT ends the invocation and sends no response of its own (R150, R152). -/
theorem inv_extracted {s : State} (hs : Inv s) : Inv (extracted s) :=
  .of_idle (by simp [extracted]) (by simpa [extracted] using hs.pc_zero) (by simpa [extracted] using hs.f1_zero)
    (by simpa [extracted] using hs.status_code) (by simpa [extracted] using hs.response_status)

/-- HASH ends in phase IDLE with status 0 and a response that carries the digest (R161). -/
theorem inv_respond_extracted (n : Nat) {u : State} (hpc : u.pc = 0) (hf1 : u.f1 = false) :
    Inv (respond n (extracted u)) :=
  .of_idle (by simp [extracted]) (by simpa [extracted] using hpc) (by simpa [extracted] using hf1) (by simp) (by simp)

theorem inv_effect {i : Instr} {s t : State} (hs : Inv s) (h : Effect i s t) : Inv t := by
  cases i with
  | g a b c d sx sy =>
    obtain ⟨rfl, -⟩ := h
    exact inv_of_worksWithinPhase hs (mix_worksWithinPhase _ _ _ _ _ _ hs.pc_zero)
  | vinit =>
    obtain ⟨rfl, -⟩ := h
    exact inv_of_worksWithinPhase hs (vinit_worksWithinPhase hs.pc_zero)
  | fold =>
    obtain ⟨rfl, -⟩ := h
    exact inv_of_worksWithinPhase hs (fold_worksWithinPhase hs.pc_zero)
  | round r =>
    obtain ⟨hr, rfl, -⟩ := h
    exact inv_of_worksWithinPhase hs (roundSteps_worksWithinPhase _ hs.pc_zero)
  | f =>
    obtain ⟨rfl, -⟩ := h
    exact inv_of_worksWithinPhase hs (compress_worksWithinPhase s)
  | init n k =>
    obtain ⟨rfl, -, hl, -⟩ := h
    exact inv_initialized hs hl
  | absorb =>
    obtain ⟨rfl, hp, -⟩ := h
    exact inv_of_worksWithinPhase hs (absorbed_worksWithinPhase hp)
  | final len =>
    obtain ⟨rfl, hp, hq, -⟩ := h
    exact inv_finalized hs hp hq
  | extract =>
    obtain ⟨rfl, -⟩ := h
    exact inv_extracted hs
  | hash n klen slen plen =>
    obtain ⟨-, u, rfl, -, hpc, hf1, -⟩ := h
    exact inv_respond_extracted _ hpc (hf1.trans hs.f1_zero)
  | hash256 =>
    obtain ⟨-, u, rfl, -, hpc, hf1, -⟩ := h
    exact inv_respond_extracted _ hpc (hf1.trans hs.f1_zero)

theorem inv_exec {i : Instr} {s t : State} (hs : Inv s) (h : exec i s = .next t) : Inv t := by
  rcases exec_cases h with ⟨c, rfl⟩ | he
  · exact inv_takeException c hs
  · exact inv_effect hs he

end Sys2Proof.Safety

namespace Sys2Proof.Machine

/-- Everything a step can answer: the rest state after the reset signal, the same state when no request waits, the entry
of IllegalControlWord for a word that does not decode, or what the waiting word's execution answers (R167, R186, R210). -/
theorem step_cases {s t : State} (h : step s = .next t) :
    (s.resetPin = true ∧ t = resetCore s) ∨
    (s.resetPin = false ∧ s.pending = false ∧ t = s) ∨
    (s.resetPin = false ∧ s.pending = true ∧ (∃ e, decode s.request.cw = .error e) ∧
      t = takeException .illegalControlWord (accept s)) ∨
    (s.resetPin = false ∧ s.pending = true ∧ ∃ i, decode s.request.cw = .ok i ∧ exec i (accept s) = .next t) := by
  simp only [step, advance] at h
  split_ifs at h with hr hp
  · exact .inl ⟨hr, by simpa using h.symm⟩
  · simp only [serveRequest] at h
    cases hd : decode s.request.cw with
    | error e =>
      simp only [hd, Host.Outcome.next.injEq] at h
      exact .inr (.inr (.inl ⟨by simpa using hr, hp, ⟨e, rfl⟩, h.symm⟩))
    | ok i =>
      simp only [hd] at h
      exact .inr (.inr (.inr ⟨by simpa using hr, hp, i, rfl, h⟩))
  · exact .inr (.inl ⟨by simpa using hr, by simpa using hp, by simpa using h.symm⟩)

end Sys2Proof.Machine

/-! ### The obligations -/

namespace Sys2Proof.Proofs

open Sys2Proof.Machine Sys2Proof.Safety

/-- Settles O48: by the inversion of a step; a control word's own case is `inv_exec` on the state that has taken the
request. -/
theorem stepKeepsInvariant : Obligations.StepKeepsInvariant := by
  unfold Obligations.StepKeepsInvariant
  intro s t hs h
  rcases step_cases h with ⟨-, rfl⟩ | ⟨-, -, rfl⟩ | ⟨-, -, -, rfl⟩ | ⟨-, -, i, -, he⟩
  · exact inv_resetCore hs
  · exact hs
  · exact inv_takeException _ (inv_accept hs)
  · exact inv_exec (inv_accept hs) he

/-- Settles O46: executing a word commutes with setting the flag, and no next state has another flag. -/
theorem lastNodeFlagHasNoEffect : Obligations.LastNodeFlagHasNoEffect := by
  unfold Obligations.LastNodeFlagHasNoEffect
  intro i s b
  have hcomm := exec_setLastNode b i s
  cases h : exec i s with
  | next t => exact ⟨by rwa [h] at hcomm, exec_next_f1 h⟩
  | fault f => rwa [h] at hcomm
  | refused r => rwa [h] at hcomm

/-- Settles O2: no register is marked as written at reset, so every word that reads one is refused (R187). -/
theorem powerOnResetState : Obligations.PowerOnResetState := by
  unfold Obligations.PowerOnResetState
  have hv : State.reset.written.v = false := rfl
  have hh : State.reset.written.h = false := rfl
  exact ⟨rfl, rfl, rfl, rfl, rfl, exec_vinit_of_unwritten (.inl hh), exec_fold_of_unwritten (.inl hh),
    exec_f_of_unwritten (.inl hh), fun r hr => exec_round_of_unwritten hr (.inl hv),
    fun a b c d sx sy hi => exec_g_of_unwritten (distinctIndices_of_pairwise hi) (.inl hv)⟩

/-- Settles O27: the phase and the lengths pass, so INIT's check of the registers it reads decides (log entry 6). -/
theorem initNeedsWrittenParameters : Obligations.InitNeedsWrittenParameters := by
  unfold Obligations.InitNeedsWrittenParameters
  intro n k s h0 hn hn' hk hw
  exact exec_init_of_unwritten h0 ((initLengthError_eq_none n k).2 ⟨hn, hn', hk⟩) (not_initReadable_of_unwritten hw)

/-- Settles O47: reset is in phase IDLE with no response. -/
theorem invariantHoldsAtReset : Obligations.InvariantHoldsAtReset := inv_reset

end Sys2Proof.Proofs

/-! PROOFS, family 20_memory: laws of the buffer accesses (R34) and of the step that takes a waiting request (R39, R167),
and the obligations they settle. -/

/-! ### Buffer accesses (R34) -/

namespace Sys2Proof.Machine

theorem memRead_eq_none {addr n : Nat} (B : Vector Byte 64) (h : ¬ (n = 4 ∧ addr % 4 = 0 ∧ addr ≤ 60)) :
    memRead B addr n = none := dif_neg h

/-- The companion of `memRead_word` for the digest buffer. -/
theorem memWrite_word (D : Vector Byte 32) (i : Fin 8) (e : Word) :
    memWrite D (4 * i.val) 4 e = some (putWord D i e) := by
  have : 4 * i.val ≤ 28 := by omega
  simp [memWrite, this]

theorem memWrite_eq_none {addr n : Nat} (D : Vector Byte 32) (e : Word)
    (h : ¬ (n = 4 ∧ addr % 4 = 0 ∧ addr ≤ 28)) : memWrite D addr n e = none := dif_neg h

/-! ### Taking a waiting request (R39, R167) -/

/-- With the reset signal low, a step with a request waiting is the serving of that request. -/
theorem step_eq_serveRequest {s : State} (hr : s.resetPin = false) (hp : s.pending = true) :
    step s = serveRequest s := by
  simp [step, advance, hr, hp]

theorem serveRequest_of_decode_ok {s : State} {i : Instr} (hd : decode s.request.cw = .ok i) :
    serveRequest s = exec i (accept s) := by
  rw [serveRequest, hd]

end Sys2Proof.Machine

/-! ### The obligations -/

namespace Sys2Proof.Proofs

open Sys2Proof.Machine

/-- Settles O33: at a defined address the access is `blockWord` or `putWord` of the word there, and `putWord_get` gives
each byte of the written buffer; the guard of the access refuses everything else. -/
theorem bufferAccessesAreAlignedWords : Obligations.BufferAccessesAreAlignedWords := by
  unfold Obligations.BufferAccessesAreAlignedWords
  refine ⟨memRead_word, fun B _ _ h => memRead_eq_none B h, fun D i e => ?_, fun D _ _ e h => memWrite_eq_none D e h⟩
  exact ⟨putWord D i e, memWrite_word D i e, fun p => putWord_get D i e p.val p.isLt⟩

/-- Settles O3: the step serves the request, and serving a word that decodes is its `exec` after `accept`. -/
theorem stepRunsWaitingWord : Obligations.StepRunsWaitingWord := by
  unfold Obligations.StepRunsWaitingWord
  intro s i hr hp hd
  exact (step_eq_serveRequest hr hp).trans (serveRequest_of_decode_ok hd)

end Sys2Proof.Proofs

/-! PROOFS, family 30_encoding: laws of the opcode map, of the decoder and encoder against the bits of a word (R51 to
R59), and of the microprogram (R64 to R67), and the obligations they settle. -/

/-! ### The opcode map (R57) -/

namespace Sys2Proof

theorem nibble_and (x y : Word) (lo : Nat) : nibble (x &&& y) lo = nibble x lo &&& nibble y lo :=
  BitVec.extractLsb'_and

/-- Every mask keeps the opcode field, so a row selects words of its own opcode only. -/
theorem opcode_of_selects {row : OpcodeRow} (hrow : row ∈ opcodeRows) {w : Word} (h : row.selects w = true) :
    nibble w 28 = nibble row.pattern 28 := by
  have hmask : ∀ row ∈ opcodeRows, nibble row.mask 28 = BitVec.allOnes 4 := by decide
  rw [OpcodeRow.selects, beq_iff_eq] at h
  rw [← h, nibble_and, hmask row hrow, BitVec.and_allOnes]

theorem opcodeRows_pairwise_not_selects :
    opcodeRows.Pairwise fun r₁ r₂ => ∀ w, ¬ (r₁.selects w = true ∧ r₂.selects w = true) := by
  have hop : opcodeRows.Pairwise fun r₁ r₂ => nibble r₁.pattern 28 ≠ nibble r₂.pattern 28 := by decide
  refine hop.imp_of_mem fun h₁ h₂ hne w ⟨s₁, s₂⟩ => hne ?_
  rw [← opcode_of_selects h₁ s₁, opcode_of_selects h₂ s₂]

theorem eq_of_selects {r₁ r₂ : OpcodeRow} (h₁ : r₁ ∈ opcodeRows) (h₂ : r₂ ∈ opcodeRows) {w : Word}
    (s₁ : r₁.selects w = true) (s₂ : r₂.selects w = true) : r₁ = r₂ := by
  by_contra hne
  have hsymm : Std.Symm fun r₁ r₂ : OpcodeRow => ∀ w, ¬ (r₁.selects w = true ∧ r₂.selects w = true) :=
    ⟨fun _ _ h w hboth => h w hboth.symm⟩
  exact opcodeRows_pairwise_not_selects.forall h₁ h₂ hne w ⟨s₁, s₂⟩

/-- The row that selects a word is the one the decoder finds. -/
theorem find_of_selects {row : OpcodeRow} (hrow : row ∈ opcodeRows) {w : Word} (h : row.selects w = true) :
    opcodeRows.find? (·.selects w) = some row := by
  cases hfind : opcodeRows.find? (·.selects w) with
  | none => exact absurd h (List.find?_eq_none.1 hfind row hrow)
  | some found =>
    have hsel : found.selects w = true := List.find?_some (p := fun r : OpcodeRow => r.selects w) hfind
    rw [eq_of_selects (List.mem_of_find?_eq_some hfind) hrow hsel h]

theorem decode_of_selects {row : OpcodeRow} (hrow : row ∈ opcodeRows) {w : Word} (h : row.selects w = true) :
    decode w = checked (row.fields w) := by
  rw [decode, find_of_selects hrow h]
  rfl

end Sys2Proof

/-! ### Rows, fields and encodings in bits (R51 to R59) -/

namespace Sys2Proof

open Sys2Proof.Safety

theorem nibble_toNat_eq_bits (w : Word) (lo : Nat) : (nibble w lo).toNat = bits w (lo + 3) lo := by
  simp [nibble_toNat, bits]

theorem octet_toNat_eq_bits (w : Word) (lo : Nat) : (octet w lo).toNat = bits w (lo + 7) lo := by
  simp [octet_toNat, bits]

theorem lengthField_toNat_eq_bits (w : Word) : (w.extractLsb' 0 7).toNat = bits w 6 0 := by
  simp [bits]

theorem nibble_eq_of_bits {w : Word} {lo : Nat} {x : Index} (h : bits w (lo + 3) lo = x.toNat) : nibble w lo = x :=
  BitVec.eq_of_toNat_eq ((nibble_toNat_eq_bits w lo).trans h)

theorem octet_eq_of_bits {w : Word} {lo : Nat} {x : Byte} (h : bits w (lo + 7) lo = x.toNat) : octet w lo = x :=
  BitVec.eq_of_toNat_eq ((octet_toNat_eq_bits w lo).trans h)

/-- The bits at and above `k` are an opcode and zeros. -/
theorem div_eq_iff_bits (w : Word) (k op : Nat) (hk : k ≤ 27) :
    w.toNat / 2 ^ k = op * 2 ^ (28 - k) ↔ bits w 31 28 = op ∧ bits w 27 k = 0 := by
  have hsplit : 2 ^ k * 2 ^ (28 - k) = 2 ^ 28 := by rw [← Nat.pow_add, Nat.add_sub_cancel' (by omega)]
  have htop : bits w 31 28 = w.toNat / 2 ^ k / 2 ^ (28 - k) := by
    rw [Nat.div_div_eq_div_mul, hsplit]
    exact Nat.mod_eq_of_lt (by omega)
  rw [htop, bits, show 27 - k + 1 = 28 - k by omega]
  constructor
  · intro h
    rw [h]
    exact ⟨Nat.mul_div_cancel _ (Nat.two_pow_pos _), Nat.mul_mod_left _ _⟩
  · rintro ⟨hop, hzero⟩
    rw [← hop, Nat.div_mul_cancel (Nat.dvd_of_mod_eq_zero hzero)]

/-- A row whose mask keeps the bits at and above `k` asks for its opcode and for zeros down to bit `k` (R57). -/
theorem selects_iff_bits (row : OpcodeRow) (w : Word) (k op : Nat) (hk : k ≤ 27) (hm : row.mask.toNat = 2 ^ 32 - 2 ^ k)
    (hp : row.pattern.toNat = op * 2 ^ 28) : row.selects w = true ↔ bits w 31 28 = op ∧ bits w 27 k = 0 := by
  have hpattern : row.pattern.toNat = op * 2 ^ (28 - k) * 2 ^ k := by
    rw [hp, Nat.mul_assoc, ← Nat.pow_add, Nat.sub_add_cancel (by omega)]
  rw [selects_iff row w k _ (by omega) hm hpattern, div_eq_iff_bits w k op hk]

theorem encode_g_bits (a b c d sx sy : Index) (w : Word) (h : w = encode (.g a b c d sx sy)) :
    bits w 31 28 = 0x1 ∧ bits w 27 24 = 0 ∧ bits w 23 20 = a.toNat ∧ bits w 19 16 = b.toNat ∧
    bits w 15 12 = c.toNat ∧ bits w 11 8 = d.toNat ∧ bits w 7 4 = sx.toNat ∧ bits w 3 0 = sy.toNat := by
  simp only [h, bits, encode_g_toNat]
  omega

theorem encode_round_bits (r : Index) (w : Word) (h : w = encode (.round r)) :
    bits w 31 28 = 0x4 ∧ bits w 27 4 = 0 ∧ bits w 3 0 = r.toNat := by
  simp only [h, bits, encode_round_toNat]
  omega

theorem encode_init_bits (n k : Byte) (w : Word) (h : w = encode (.init n k)) :
    bits w 31 28 = 0x6 ∧ bits w 27 16 = 0 ∧ bits w 15 8 = k.toNat ∧ bits w 7 0 = n.toNat := by
  simp only [h, bits, encode_init_toNat]
  omega

theorem encode_final_bits (len : BitVec 7) (w : Word) (h : w = encode (.final len)) :
    bits w 31 28 = 0x8 ∧ bits w 27 7 = 0 ∧ bits w 6 0 = len.toNat := by
  simp only [h, bits, encode_final_toNat]
  omega

theorem encode_hash_bits (n klen : Byte) (slen plen : Index) (w : Word) (h : w = encode (.hash n klen slen plen)) :
    bits w 31 28 = 0xA ∧ bits w 27 24 = 0 ∧ bits w 23 20 = plen.toNat ∧ bits w 19 16 = slen.toNat ∧
    bits w 15 8 = klen.toNat ∧ bits w 7 0 = n.toNat := by
  simp only [h, bits, encode_hash_toNat]
  omega

/-- Format Z (R51). -/
theorem encode_opcodeOnly_bits : ∀ p ∈ [(Instr.vinit, 0x2), (.fold, 0x3), (.f, 0x5), (.absorb, 0x7), (.extract, 0x9),
    (.hash256, 0xB)], bits (encode p.1) 31 28 = p.2 ∧ bits (encode p.1) 27 0 = 0 := by
  decide

/-- A word with the opcode and the zero bits of the row at place `n` decodes to the row's fields when they are well
formed. -/
theorem decode_of_bits (n k op : Nat) {w : Word} {i : Instr} (hop : bits w 31 28 = op) (hzero : bits w 27 k = 0)
    (hk : k ≤ 27 := by decide) (hn : n < opcodeRows.length := by decide)
    (hm : opcodeRows[n].mask.toNat = 2 ^ 32 - 2 ^ k := by rfl)
    (hp : opcodeRows[n].pattern.toNat = op * 2 ^ 28 := by rfl)
    (hfields : opcodeRows[n].fields w = i) (hwf : wellFormed i = true) : decode w = .ok i := by
  have hsel := (selects_iff_bits opcodeRows[n] w k op hk hm hp).2 ⟨hop, hzero⟩
  rw [decode_of_selects (List.getElem_mem hn) hsel, hfields, checked_eq_ok]
  exact ⟨hwf, rfl⟩

/-- The opcode and the zero bits of the encoding pick the row, and each field it reads is the operand written there. -/
theorem decode_encode {i : Instr} (hwf : wellFormed i = true) : decode (encode i) = .ok i := by
  cases i with
  | g a b c d sx sy =>
    obtain ⟨hop, hzero, ha, hb, hc, hd, hx, hy⟩ := encode_g_bits a b c d sx sy _ rfl
    refine decode_of_bits 0 24 0x1 hop hzero (hfields := ?_) (hwf := hwf)
    change Instr.g (nibble _ 20) (nibble _ 16) (nibble _ 12) (nibble _ 8) (nibble _ 4) (nibble _ 0) = _
    rw [nibble_eq_of_bits ha, nibble_eq_of_bits hb, nibble_eq_of_bits hc, nibble_eq_of_bits hd, nibble_eq_of_bits hx,
      nibble_eq_of_bits hy]
  | round r =>
    obtain ⟨hop, hzero, hr⟩ := encode_round_bits r _ rfl
    have hfields := congrArg Instr.round (nibble_eq_of_bits hr)
    exact decode_of_bits 3 4 0x4 hop hzero (hfields := hfields) (hwf := hwf)
  | init n k =>
    obtain ⟨hop, hzero, hk, hn⟩ := encode_init_bits n k _ rfl
    have hfields := congrArg₂ Instr.init (octet_eq_of_bits hn) (octet_eq_of_bits hk)
    exact decode_of_bits 5 16 0x6 hop hzero (hfields := hfields) (hwf := hwf)
  | final len =>
    obtain ⟨hop, hzero, hlen⟩ := encode_final_bits len _ rfl
    have hfields := congrArg Instr.final (BitVec.eq_of_toNat_eq ((lengthField_toNat_eq_bits _).trans hlen))
    exact decode_of_bits 7 7 0x8 hop hzero (hfields := hfields) (hwf := hwf)
  | hash n klen slen plen =>
    obtain ⟨hop, hzero, hplen, hslen, hklen, hn⟩ := encode_hash_bits n klen slen plen _ rfl
    refine decode_of_bits 9 24 0xA hop hzero (hfields := ?_) (hwf := hwf)
    change Instr.hash (octet _ 0) (octet _ 8) (nibble _ 16) (nibble _ 20) = _
    rw [octet_eq_of_bits hn, octet_eq_of_bits hklen, nibble_eq_of_bits hslen, nibble_eq_of_bits hplen]
  | vinit | fold | f | absorb | extract | hash256 => decide

theorem wellFormed_of_decode {w : Word} {i : Instr} (h : decode w = .ok i) : wellFormed i = true := by
  rcases decode_cases h with ⟨-, rfl, hwf⟩ | ⟨-, rfl, hwf⟩ | ⟨-, rfl, hwf⟩ | ⟨-, rfl, hwf⟩ | ⟨-, rfl, hwf⟩ |
    ⟨-, rfl, hwf⟩ | ⟨-, rfl, hwf⟩ | ⟨-, rfl, hwf⟩ | ⟨-, rfl, hwf⟩ | ⟨-, rfl, hwf⟩ | ⟨-, rfl, hwf⟩ <;> exact hwf

/-- The fixed bits of the row and the fields it reads are all of the word. -/
theorem encode_decode {w : Word} {i : Instr} (h : decode w = .ok i) : encode i = w := by
  refine BitVec.eq_of_toNat_eq ?_
  rcases decode_cases h with ⟨hw, rfl, -⟩ | ⟨hw, rfl, -⟩ | ⟨hw, rfl, -⟩ | ⟨hw, rfl, -⟩ | ⟨hw, rfl, -⟩ | ⟨hw, rfl, -⟩ |
    ⟨hw, rfl, -⟩ | ⟨hw, rfl, -⟩ | ⟨hw, rfl, -⟩ | ⟨hw, rfl, -⟩ | ⟨hw, rfl, -⟩
  · simp only [encode_g_toNat, nibble_toNat]; omega
  · exact hw.symm
  · exact hw.symm
  · simp only [encode_round_toNat, nibble_toNat]; omega
  · exact hw.symm
  · simp only [encode_init_toNat, octet_toNat]; omega
  · exact hw.symm
  · rw [encode_final_toNat, lengthField_toNat_eq_bits, bits]; omega
  · exact hw.symm
  · simp only [encode_hash_toNat, octet_toNat, nibble_toNat]; omega
  · exact hw.symm

/-! ### Legal words (R58) -/

theorem distinctIndices_nibbles_iff (w : Word) :
    distinctIndices (nibble w 20) (nibble w 16) (nibble w 12) (nibble w 8) = true ↔
      [bits w 23 20, bits w 19 16, bits w 15 12, bits w 11 8].Pairwise (· ≠ ·) := by
  simp only [Machine.distinctIndices_iff, ne_eq, ← BitVec.toNat_inj, nibble_toNat_eq_bits]
  simp [and_assoc]

theorem roundInRange_nibble_iff (w : Word) : roundInRange (nibble w 0) = true ↔ bits w 3 0 ≤ 9 := by
  rw [roundInRange, nibble_toNat_eq_bits, decide_eq_true_iff]

theorem lengthInRange_lengthField_iff (w : Word) :
    lengthInRange (w.extractLsb' 0 7) = true ↔ bits w 6 0 ≤ 64 := by
  rw [lengthInRange, lengthField_toNat_eq_bits, decide_eq_true_iff]

theorem legalWord_of_opcodeOnly {w : Word} (op : Nat) (hop : op ∈ [0x2, 0x3, 0x5, 0x7, 0x9, 0xB])
    (hw : w.toNat = op * 2 ^ 28) : LegalWord w := by
  obtain ⟨rfl, hzero⟩ := (div_eq_iff_bits w 0 op (by decide)).1 ((Nat.div_one _).trans hw)
  simp only [List.mem_cons, List.not_mem_nil, or_false] at hop
  exact .inr (.inl ⟨hop, hzero⟩)

/-- What a word that decodes shows: the row's fixed bits, and its operand check in numbers. -/
theorem legalWord_of_decode {w : Word} {i : Instr} (h : decode w = .ok i) : LegalWord w := by
  rcases decode_cases h with ⟨hw, -, hwf⟩ | ⟨hw, -, -⟩ | ⟨hw, -, -⟩ | ⟨hw, -, hwf⟩ | ⟨hw, -, -⟩ | ⟨hw, -, -⟩ |
    ⟨hw, -, -⟩ | ⟨hw, -, hwf⟩ | ⟨hw, -, -⟩ | ⟨hw, -, -⟩ | ⟨hw, -, -⟩
  · obtain ⟨hop, hzero⟩ := (div_eq_iff_bits w 24 0x1 (by decide)).1 hw
    exact .inl ⟨hop, hzero, (distinctIndices_nibbles_iff w).1 hwf⟩
  · exact legalWord_of_opcodeOnly 0x2 (by decide) hw
  · exact legalWord_of_opcodeOnly 0x3 (by decide) hw
  · obtain ⟨hop, hzero⟩ := (div_eq_iff_bits w 4 0x4 (by decide)).1 hw
    exact .inr (.inr (.inl ⟨hop, hzero, (roundInRange_nibble_iff w).1 hwf⟩))
  · exact legalWord_of_opcodeOnly 0x5 (by decide) hw
  · obtain ⟨hop, hzero⟩ := (div_eq_iff_bits w 16 0x6 (by decide)).1 hw
    exact .inr (.inr (.inr (.inl ⟨hop, hzero⟩)))
  · exact legalWord_of_opcodeOnly 0x7 (by decide) hw
  · obtain ⟨hop, hzero⟩ := (div_eq_iff_bits w 7 0x8 (by decide)).1 hw
    exact .inr (.inr (.inr (.inr (.inl ⟨hop, hzero, (lengthInRange_lengthField_iff w).1 hwf⟩))))
  · exact legalWord_of_opcodeOnly 0x9 (by decide) hw
  · obtain ⟨hop, hzero⟩ := (div_eq_iff_bits w 24 0xA (by decide)).1 hw
    exact .inr (.inr (.inr (.inr (.inr ⟨hop, hzero⟩))))
  · exact legalWord_of_opcodeOnly 0xB (by decide) hw

/-- Each legal pattern of bits is a row of the map with well-formed fields. -/
theorem exists_decode_of_legalWord {w : Word} (h : LegalWord w) : ∃ i, decode w = .ok i := by
  rw [LegalWord] at h
  rcases h with ⟨hop, hzero, hdistinct⟩ | ⟨hop | hop | hop | hop | hop | hop, hzero⟩ | ⟨hop, hzero, hr⟩ |
    ⟨hop, hzero⟩ | ⟨hop, hzero, hlen⟩ | ⟨hop, hzero⟩
  · exact ⟨_, decode_of_bits 0 24 0x1 hop hzero (hfields := rfl) (hwf := (distinctIndices_nibbles_iff w).2 hdistinct)⟩
  · exact ⟨_, decode_of_bits 1 0 0x2 hop hzero (hfields := rfl) (hwf := rfl)⟩
  · exact ⟨_, decode_of_bits 2 0 0x3 hop hzero (hfields := rfl) (hwf := rfl)⟩
  · exact ⟨_, decode_of_bits 4 0 0x5 hop hzero (hfields := rfl) (hwf := rfl)⟩
  · exact ⟨_, decode_of_bits 6 0 0x7 hop hzero (hfields := rfl) (hwf := rfl)⟩
  · exact ⟨_, decode_of_bits 8 0 0x9 hop hzero (hfields := rfl) (hwf := rfl)⟩
  · exact ⟨_, decode_of_bits 10 0 0xB hop hzero (hfields := rfl) (hwf := rfl)⟩
  · exact ⟨_, decode_of_bits 3 4 0x4 hop hzero (hfields := rfl) (hwf := (roundInRange_nibble_iff w).2 hr)⟩
  · exact ⟨_, decode_of_bits 5 16 0x6 hop hzero (hfields := rfl) (hwf := rfl)⟩
  · exact ⟨_, decode_of_bits 7 7 0x8 hop hzero (hfields := rfl) (hwf := (lengthInRange_lengthField_iff w).2 hlen)⟩
  · exact ⟨_, decode_of_bits 9 24 0xA hop hzero (hfields := rfl) (hwf := rfl)⟩

theorem exists_decode_iff_legalWord (w : Word) : (∃ i, decode w = .ok i) ↔ LegalWord w :=
  ⟨fun ⟨_, h⟩ => legalWord_of_decode h, exists_decode_of_legalWord⟩

theorem not_legalWord_zero : ¬ LegalWord 0 := by rw [LegalWord]; decide

theorem not_legalWord_allOnes : ¬ LegalWord 0xFFFFFFFF := by rw [LegalWord]; decide

end Sys2Proof

/-! ### A waiting illegal word (R186) -/

namespace Sys2Proof.Machine

open Sys2Proof.Safety

theorem serveRequest_of_decode_error {s : State} (h : ∀ i, decode s.request.cw ≠ .ok i) :
    serveRequest s = .next (afterException 5 (accept s)) := by
  cases hd : decode s.request.cw with
  | error e => rw [serveRequest, hd]; rfl
  | ok i => exact absurd hd (h i)

end Sys2Proof.Machine

/-! ### The microprogram (R64 to R67, R96) -/

namespace Sys2Proof.Machine

theorem urom_step (r : Fin 10) (i : Fin 8) : urom (1 + 8 * r.val + i.val) = gStep r i := by
  have hround : (1 + 8 * r.val + i.val - 1) / 8 = r.val := by omega
  have hstep : (1 + 8 * r.val + i.val - 1) % 8 = i.val := by omega
  rw [urom, if_neg (by omega), dif_pos (by omega)]
  simp only [hround, hstep]

theorem microRun_pc {k : Nat} (hk : k ≤ 81) (s : State) : (microRun k { s with pc := 0 }).pc.toNat = k := by
  have hrun := microRun_from k 0 s (by omega)
  rw [show (0 : BitVec 7) = BitVec.ofNat 7 0 from rfl, hrun, BitVec.toNat_ofNat]
  omega

theorem microStep_pc (s : State) : (microStep s).pc = nextPosition s.pc := rfl

theorem nextPosition_le {pc : BitVec 7} (h : pc.toNat ≤ 81) : (nextPosition pc).toNat ≤ 81 := by
  rw [nextPosition]
  split_ifs with hlast
  · decide
  · bv_omega

/-- When F completes (R94, R187). -/
theorem exec_f_of_written {s : State} (hh : s.written.h = true) (hm : s.written.m = true) (ht : s.written.t = true)
    (hf0 : s.written.f0 = true) : exec .f s = .next (compress s) := by
  rw [exec, execF, if_pos (by simp [hh, hm, ht, hf0]), conclude_done]

end Sys2Proof.Machine

/-! ### The obligations -/

namespace Sys2Proof.Proofs

open Sys2Proof.Machine Sys2Proof.Safety

/-- Settles O6: the encoding is selected by its own row, and the row's fields are the operands. -/
theorem decodeOfEncode : Obligations.DecodeOfEncode := by
  unfold Obligations.DecodeOfEncode
  exact fun _ hwf => decode_encode hwf

/-- Settles O5: the rows' fixed bits and operand checks are R58's, and a word that does not decode is served by R186. -/
theorem exactlyLegalWordsDecode : Obligations.ExactlyLegalWordsDecode := by
  unfold Obligations.ExactlyLegalWordsDecode
  refine ⟨exists_decode_iff_legalWord, fun s hr hp hillegal => ?_, not_legalWord_zero, not_legalWord_allOnes⟩
  rw [step_eq_serveRequest hr hp]
  exact serveRequest_of_decode_error fun i hi => hillegal ((exists_decode_iff_legalWord _).1 ⟨i, hi⟩)

/-- Settles O7: a row reads every bit that is not fixed by its mask, and only well-formed operands pass the decoder. -/
theorem encodeOfDecode : Obligations.EncodeOfDecode := by
  unfold Obligations.EncodeOfDecode
  exact fun _ _ h => ⟨wellFormed_of_decode h, encode_decode h⟩

/-- Settles O8: two rows differ in their opcode, which both masks keep. -/
theorem opcodeRowsDisjoint : Obligations.OpcodeRowsDisjoint := opcodeRows_pairwise_not_selects

/-- Settles O9: format by format, from the encoding as a sum. -/
theorem encodedFieldsStandInTheirBits : Obligations.EncodedFieldsStandInTheirBits := by
  unfold Obligations.EncodedFieldsStandInTheirBits
  exact ⟨encode_g_bits, fun i op h => encode_opcodeOnly_bits (i, op) h, encode_round_bits,
    encode_init_bits, encode_final_bits, encode_hash_bits⟩

/-- Settles O10: each word is the encoding of its instruction (O6). -/
theorem specWordsDecode : Obligations.SpecWordsDecode := by
  unfold Obligations.SpecWordsDecode
  exact ⟨decodeOfEncode (.g 1 6 11 12 3 9) rfl, decodeOfEncode .vinit rfl, decodeOfEncode .fold rfl,
    decodeOfEncode (.round 1) rfl, decodeOfEncode .f rfl, decodeOfEncode (.init 20 16) rfl, decodeOfEncode .absorb rfl,
    decodeOfEncode (.final 64) rfl, decodeOfEncode .extract rfl, decodeOfEncode (.hash 32 0 3 2) rfl,
    decodeOfEncode .hash256 rfl⟩

/-- Settles O23: `urom_step` gives the words, `microRun_from` and `nextPosition` the positions, and F is the sequencer's
run by `compress_eq_run`. -/
theorem microprogramIsStraightLine : Obligations.MicroprogramIsStraightLine := by
  unfold Obligations.MicroprogramIsStraightLine
  refine ⟨rfl, rfl, urom_step, fun s k hk => microRun_pc hk s, fun s => ?_, fun s h => ?_, fun s hh hm ht hf0 => ?_⟩
  · rw [compress_run]
  · rw [microStep_pc]
    exact nextPosition_le h
  · exact ⟨compress s, exec_f_of_written hh hm ht hf0, compress_eq_run s, compress_pc s⟩

/-- Settles O24: SIGMA is a constant table, so each of its ten rows is sorted out by evaluation. -/
theorem sigmaRowsArePermutations : Obligations.SigmaRowsArePermutations := by
  unfold Obligations.SigmaRowsArePermutations
  decide

end Sys2Proof.Proofs

/-! PROOFS, family 41_g_function: laws of rotation (R81), of the mixing primitive G (R82 to R84) and of the frames of the
eleven control words (R83, R95, R139, R153), and the obligations they settle. -/

/-! ### Rotation (R81) -/

namespace Sys2Proof.Machine

theorem rotr32_toNat (w : Word) (s : Nat) :
    (rotr32 w s).toNat = (w.toNat / 2 ^ s ||| w.toNat * 2 ^ (32 - s)) % 2 ^ 32 := by
  have hdiv : w.toNat / 2 ^ s < 2 ^ 32 := Nat.lt_of_le_of_lt (Nat.div_le_self ..) w.isLt
  rw [rotr32, BitVec.toNat_or, BitVec.toNat_ushiftRight, BitVec.toNat_shiftLeft, Nat.shiftRight_eq_div_pow,
    Nat.shiftLeft_eq, Nat.or_mod_two_pow, Nat.mod_eq_of_lt hdiv]

theorem rotr32_eq_rotateRight {s : Nat} (hs : s < 32) (w : Word) : rotr32 w s = w.rotateRight s := by
  rw [rotr32, BitVec.rotateRight_def, Nat.mod_eq_of_lt hs]

theorem rotr32_getLsbD {s : Nat} (hs : s < 32) (w : Word) {i : Nat} (hi : i < 32) :
    (rotr32 w s).getLsbD i = w.getLsbD ((i + s) % 32) := by
  rw [rotr32_eq_rotateRight hs, BitVec.getLsbD_rotateRight_of_lt hs, decide_eq_true hi, Bool.true_and]
  by_cases hlow : i < 32 - s
  · rw [decide_eq_true hlow, cond_true, Nat.mod_eq_of_lt (by omega), Nat.add_comm]
  · have hwrap : i - (32 - s) = (i + s) % 32 := by omega
    rw [decide_eq_false hlow, cond_false, hwrap]

end Sys2Proof.Machine

/-! ### G (R82 to R84) -/

namespace Sys2Proof.Machine

open Sys2Proof.Safety

theorem pairwise_of_distinctIndices {a b c d : Index} (h : distinctIndices a b c d = true) :
    [a, b, c, d].Pairwise (· ≠ ·) := by
  simpa [and_assoc] using (distinctIndices_iff a b c d).1 h

/-- When G completes (R82, R187). -/
theorem exec_g_of_written {a b c d : Index} (sx sy : Index) {s : State} (hi : distinctIndices a b c d = true)
    (hv : s.written.v = true) (hm : s.written.m = true) :
    exec (.g a b c d sx sy) s = .next (mix a b c d sx sy s) := by
  rw [exec, execG, if_pos hi, if_pos (by simp [mixReadable, hv, hm]), conclude_done]

theorem exec_g_of_equalIndices {a b c d : Index} (sx sy : Index) (s : State) (hi : ¬ distinctIndices a b c d = true) :
    exec (.g a b c d sx sy) s = .next (afterException 5 s) := by
  rw [exec, execG, if_neg hi]
  rfl

theorem getReg_setReg (file : Vector Word 16) (i j : Index) (x : Word) :
    getReg (setReg file i x) j = if i = j then x else getReg file j := by
  split_ifs with h
  · rw [← h, getReg_setReg_self]
  · exact getReg_setReg_ne file x h

/-- Of two writes to each of four registers the second stays, and the order of the second writes does not matter. -/
theorem setReg_four_twice (v : Vector Word 16) {a b c d : Index} (h : distinctIndices a b c d = true)
    (a₁ b₁ c₁ d₁ a₂ b₂ c₂ d₂ : Word) :
    setReg (setReg (setReg (setReg (setReg (setReg (setReg (setReg v a a₁) d d₁) c c₁) b b₁) a a₂) d d₂) c c₂) b b₂ =
      setReg (setReg (setReg (setReg v a a₂) b b₂) c c₂) d d₂ := by
  obtain ⟨-, -, -, hbc, hbd, hcd⟩ := (distinctIndices_iff a b c d).1 h
  refine ext_getReg fun i => ?_
  simp only [getReg_setReg]
  split_ifs <;> simp_all

/-- Each of the eight lines writes one slot, and the two writes of a slot leave the second (R82). -/
theorem mixLines_eq_mixVector (v : Vector Word 16) {a b c d : Index} (h : distinctIndices a b c d = true) (x y : Word) :
    mixLines v a b c d x y = mixVector v a b c d x y := by
  obtain ⟨hab, hac, had, hbc, hbd, hcd⟩ := (distinctIndices_iff a b c d).1 h
  simp only [mixLines, getReg_setReg, ↓reduceIte, hab, hab.symm, hac, hac.symm, had, had.symm, hbc, hbc.symm, hbd,
    hbd.symm, hcd, hcd.symm, setReg_four_twice v h, mixVector, mixWords]

/-- The four results depend on the six words G reads and on nothing else (R83). -/
theorem getReg_mixVector_congr {v v' : Vector Word 16} {a b c d : Index} (h : distinctIndices a b c d = true)
    {x y x' y' : Word} (hv : ∀ i ∈ [a, b, c, d], getReg v' i = getReg v i) (hx : x' = x) (hy : y' = y) :
    ∀ i ∈ [a, b, c, d], getReg (mixVector v' a b c d x' y') i = getReg (mixVector v a b c d x y) i := by
  obtain ⟨ha, hb, hc, hd⟩ := getReg_mixVector_slots v h x y
  obtain ⟨ha', hb', hc', hd'⟩ := getReg_mixVector_slots v' h x' y'
  simp only [List.forall_mem_cons, List.not_mem_nil, false_imp_iff, implies_true, and_true] at hv ⊢
  obtain ⟨hva, hvb, hvc, hvd⟩ := hv
  rw [ha, hb, hc, hd, ha', hb', hc', hd', hva, hvb, hvc, hvd, hx, hy]
  exact ⟨rfl, rfl, rfl, rfl⟩

theorem getReg_mixVector_of_not_mem (v : Vector Word 16) {a b c d i : Index} (h : i ∉ [a, b, c, d]) (x y : Word) :
    getReg (mixVector v a b c d x y) i = getReg v i := by
  simp only [List.mem_cons, List.not_mem_nil, or_false, not_or] at h
  obtain ⟨ha, hb, hc, hd⟩ := h
  exact getReg_mixVector_other v (Ne.symm ha) (Ne.symm hb) (Ne.symm hc) (Ne.symm hd) x y

/-- Half of G (R82): four of its eight lines, adding the message word `x` and rotating by `r` and then by `q`. -/
def mixHalf (r q : Nat) (x : Word) : Word × Word × Word × Word → Word × Word × Word × Word
  | (va, vb, vc, vd) =>
    let a := va + vb + x
    let d := rotr32 (vd ^^^ a) r
    let c := vc + d
    (a, rotr32 (vb ^^^ c) q, c, d)

theorem mixWords_eq_mixHalf (va vb vc vd x y : Word) :
    mixWords va vb vc vd x y = mixHalf 8 7 y (mixHalf 16 12 x (va, vb, vc, vd)) := rfl

/-- The lines of a half can be undone from the last to the first. -/
theorem mixHalf_injective {r q : Nat} (hr : 0 < r) (hr' : r < 32) (hq : 0 < q) (hq' : q < 32) (x : Word) :
    Function.Injective (mixHalf r q x) := by
  rintro ⟨a, b, c, d⟩ ⟨a', b', c', d'⟩ h
  simp only [mixHalf, Prod.mk.injEq] at h
  obtain ⟨ha, hb, hc, hd⟩ := h
  have ed : d = d' := by
    have := rotr32_injective hr hr' hd
    rwa [ha, BitVec.xor_left_inj] at this
  have ec : c = c' := by rwa [hd, BitVec.add_left_inj] at hc
  have eb : b = b' := by
    have := rotr32_injective hq hq' hb
    rwa [hc, BitVec.xor_left_inj] at this
  have ea : a = a' := by rwa [eb, BitVec.add_left_inj, BitVec.add_left_inj] at ha
  rw [ea, eb, ec, ed]

/-- G loses nothing of the four words it mixes (R82, corner cases). -/
theorem mixWords_injective {va vb vc vd va' vb' vc' vd' x y : Word}
    (h : mixWords va vb vc vd x y = mixWords va' vb' vc' vd' x y) : (va, vb, vc, vd) = (va', vb', vc', vd') := by
  rw [mixWords_eq_mixHalf, mixWords_eq_mixHalf] at h
  have hfirst := mixHalf_injective (by decide) (by decide) (by decide) (by decide) y h
  exact mixHalf_injective (by decide) (by decide) (by decide) (by decide) x hfirst

/-- What G does to the working vector can be undone: the four slots by `mixWords_injective`, the others as they stand. -/
theorem mixVector_injective {a b c d : Index} (hi : distinctIndices a b c d = true) (x y : Word) :
    Function.Injective fun v => mixVector v a b c d x y := by
  intro v v' h
  have hreg : ∀ i, getReg (mixVector v a b c d x y) i = getReg (mixVector v' a b c d x y) i :=
    fun i => congrArg (getReg · i) h
  obtain ⟨ha, hb, hc, hd⟩ := getReg_mixVector_slots v hi x y
  obtain ⟨ha', hb', hc', hd'⟩ := getReg_mixVector_slots v' hi x y
  have hwords : (getReg v a, getReg v b, getReg v c, getReg v d) = (getReg v' a, getReg v' b, getReg v' c, getReg v' d) := by
    refine mixWords_injective (x := x) (y := y) (Prod.ext ?_ (Prod.ext ?_ (Prod.ext ?_ ?_)))
    · rw [← ha, ← ha', hreg]
    · rw [← hb, ← hb', hreg]
    · rw [← hc, ← hc', hreg]
    · rw [← hd, ← hd', hreg]
  have hslots : ∀ i ∈ [a, b, c, d], getReg v i = getReg v' i := by simpa using hwords
  refine ext_getReg fun i => ?_
  by_cases hmem : i ∈ [a, b, c, d]
  · exact hslots i hmem
  · simpa only [getReg_mixVector_of_not_mem v hmem, getReg_mixVector_of_not_mem v' hmem] using hreg i

end Sys2Proof.Machine

/-! ### G with equal indices (R84) -/

namespace Sys2Proof

open Sys2Proof.Safety

/-- The encoding of a G is selected by G's row whatever its indices are; whether it decodes is up to the operand check. -/
theorem decode_encode_g (a b c d sx sy : Index) : decode (encode (.g a b c d sx sy)) = checked (.g a b c d sx sy) := by
  obtain ⟨-, -, ha, hb, hc, hd, hx, hy⟩ := encode_g_bits a b c d sx sy _ rfl
  rw [decode_eq, if_pos (by rw [encode_g_toNat]; omega), nibble_eq_of_bits ha, nibble_eq_of_bits hb,
    nibble_eq_of_bits hc, nibble_eq_of_bits hd, nibble_eq_of_bits hx, nibble_eq_of_bits hy]

theorem not_decode_encode_of_equalIndices {a b c d : Index} (sx sy : Index) (hi : ¬ distinctIndices a b c d = true)
    (i : Instr) : decode (encode (.g a b c d sx sy)) ≠ .ok i := by
  rw [decode_encode_g, ne_eq, checked_eq_ok]
  exact fun ⟨hwf, _⟩ => hi hwf

end Sys2Proof

/-! ### What each control word leaves unchanged (R83, R95, R139, R153) -/

namespace Sys2Proof.Machine

theorem extracted_keeps (s : State) : (extracted s).f1 = s.f1 ∧ (extracted s).inq = s.inq ∧ (extracted s).pc = s.pc ∧
    (extracted s).written = s.written ∧ (extracted s).request = s.request ∧ (extracted s).pending = s.pending ∧
    (extracted s).resetPin = s.resetPin := by
  simp [extracted]

/-- A transaction's end keeps the last-node flag and the port's inputs (R153, R161; log entry 8). -/
theorem respond_extracted_keeps (n : Nat) {s u : State} (hf1 : u.f1 = s.f1) (hreq : u.request = s.request)
    (hpend : u.pending = s.pending) (hpin : u.resetPin = s.resetPin) :
    (respond n (extracted u)).f1 = s.f1 ∧ (respond n (extracted u)).request = s.request ∧
    (respond n (extracted u)).pending = s.pending ∧ (respond n (extracted u)).resetPin = s.resetPin := by
  obtain ⟨ef1, -, -, -, ereq, epend, epin⟩ := extracted_keeps u
  simp [ef1, ereq, epend, epin, hf1, hreq, hpend, hpin]

theorem initialized_frame (n k : Byte) (s : State) : initialized n k s =
    { s with nn := n, kk := k, h := (initialized n k s).h, t0 := 0, t1 := 0, f0 := false,
             inq := (initialized n k s).inq, phase := .continuing,
             written := { s.written with h := true, t := true, f0 := true } } := by
  simp [initialized, setLastBlock, setCounter]

end Sys2Proof.Machine

/-! ### The obligations -/

namespace Sys2Proof.Proofs

open Sys2Proof.Machine Sys2Proof.Safety

/-- Settles O11: G completes and its vector is the model's `mixVector`, which the eight lines compute. -/
theorem gRunsItsEightLines : Obligations.GRunsItsEightLines := by
  unfold Obligations.GRunsItsEightLines
  intro a b c d sx sy s hpw hv hm
  have hi := distinctIndices_of_pairwise hpw
  rw [exec_g_of_written sx sy hi hv hm, mixLines_eq_mixVector s.v hi, mix]

/-- Settles O12: the result is `mix`, whose slots depend on the six words read and which keeps every other register. -/
theorem gTouchesFourSlots : Obligations.GTouchesFourSlots := by
  unfold Obligations.GTouchesFourSlots
  intro a b c d sx sy s hpw hv hm
  have hi := distinctIndices_of_pairwise hpw
  refine ⟨mix a b c d sx sy s, exec_g_of_written sx sy hi hv hm, by rw [mix], fun i hmem => ?_,
    fun s' hv' hm' hslots hx hy => ⟨mix a b c d sx sy s', exec_g_of_written sx sy hi hv' hm', ?_⟩⟩
  · rw [mix_v, getReg_mixVector_of_not_mem s.v hmem]
  · simpa only [mix_v] using getReg_mixVector_congr hi hslots hx hy

/-- Settles O13: G's row reads the four indices and the operand check rejects them, at decode and at exec. -/
theorem gWithEqualIndicesIsIllegal : Obligations.GWithEqualIndicesIsIllegal := by
  unfold Obligations.GWithEqualIndicesIsIllegal
  intro a b c d sx sy hpw
  have hi : ¬ distinctIndices a b c d = true := fun h => hpw (pairwise_of_distinctIndices h)
  exact ⟨not_decode_encode_of_equalIndices sx sy hi, fun w hw => hi (wellFormed_of_decode hw),
    fun s => exec_g_of_equalIndices sx sy s hi⟩

/-- Settles O14: both next states are `mix`, and G's two halves can be undone. -/
theorem gNeverCollides : Obligations.GNeverCollides := by
  unfold Obligations.GNeverCollides
  intro a b c d sx sy s s' t t' hpw hw hv hm hmsg ht ht' heq
  have hi := distinctIndices_of_pairwise hpw
  rw [exec_g_of_written sx sy hi hv hm, Host.Outcome.next.injEq] at ht
  rw [exec_g_of_written sx sy hi (hw ▸ hv) (hw ▸ hm), Host.Outcome.next.injEq] at ht'
  rw [← ht, ← ht', mix_v, mix_v, hmsg] at heq
  exact mixVector_injective hi _ _ heq

/-- Settles O16: the shifts as a quotient and a product, and the library's rotation bit by bit. -/
theorem rotationMovesBits : Obligations.RotationMovesBits := by
  unfold Obligations.RotationMovesBits
  refine ⟨fun w s _ hs => ⟨rotr32_toNat w s, fun i hi => rotr32_getLsbD hs w hi⟩, ?_⟩
  decide

/-- Settles O45: an exception writes `status` and the response, which every frame lists; otherwise the word's effect has
the frame its own rule gives. -/
theorem controlWordsKeepTheirFrames : Obligations.ControlWordsKeepTheirFrames := by
  unfold Obligations.ControlWordsKeepTheirFrames
  intro i s t h
  rcases exec_cases h with ⟨c, rfl⟩ | he
  · cases i <;> simp [takeException]
  cases i with
  | g a b c d sx sy => obtain ⟨rfl, -⟩ := he; simp only [mix]
  | vinit => obtain ⟨rfl, -⟩ := he; simp only [vinit]
  | fold => obtain ⟨rfl, -⟩ := he; simp only [fold, releaseWorking]
  | round r => obtain ⟨hr, rfl, -⟩ := he; rw [roundSteps_frame]
  | f => obtain ⟨rfl, -⟩ := he; rw [compress_frame]
  | init n k => obtain ⟨rfl, -⟩ := he; rw [initialized_frame]
  | absorb => obtain ⟨rfl, -⟩ := he; rw [absorbed_frame]
  | final len => obtain ⟨rfl, -, hq, -⟩ := he; rw [finalized_frame hq]
  | extract => obtain ⟨rfl, -⟩ := he; exact extracted_keeps s
  | hash n klen slen plen =>
    obtain ⟨-, u, rfl, -, -, hf1, hreq, hpend, hpin⟩ := he
    exact respond_extracted_keeps _ hf1 hreq hpend hpin
  | hash256 =>
    obtain ⟨-, u, rfl, -, -, hf1, hreq, hpend, hpin⟩ := he
    exact respond_extracted_keeps _ hf1 hreq hpend hpin

end Sys2Proof.Proofs

/-! PROOFS, family 42_compression: when VINIT, FOLD and ROUND complete, what a sequence of control words runs, and the
working vector as the pure functions give it (R91 to R95), and the obligations they settle. -/

/-! ### When VINIT, FOLD and ROUND complete (R91 to R93, R187) -/

namespace Sys2Proof.Machine

open Sys2Proof.Safety

theorem exec_vinit_of_written {s : State} (hh : s.written.h = true) (ht : s.written.t = true)
    (hf0 : s.written.f0 = true) : exec .vinit s = .next (vinit s) := by
  rw [exec, execVinit, if_pos (by simp [hh, ht, hf0]), conclude_done]

theorem exec_fold_of_written {s : State} (hh : s.written.h = true) (hv : s.written.v = true) :
    exec .fold s = .next (fold s) := by
  rw [exec, execFold, if_pos (by simp [hh, hv]), conclude_done]

theorem mixReadable_of_written {s : State} (hv : s.written.v = true) (hm : s.written.m = true) :
    mixReadable s = true := by
  rw [mixReadable, hv, hm, Bool.and_self]

theorem exec_round_of_readable (r : Fin 10) {s : State} (hs : mixReadable s = true) :
    exec (.round (BitVec.ofNat 4 r.val)) s = .next (roundSteps r s) := by
  have hr : (BitVec.ofNat 4 r.val).toNat = r.val := by
    rw [BitVec.toNat_ofNat]
    omega
  simp only [exec, execRound, hr, dif_pos r.isLt, if_pos hs, conclude_done]

theorem exec_round_of_outOfRange {r : Index} (hr : 9 < r.toNat) (s : State) :
    exec (.round r) s = .next (afterException 5 s) := by
  rw [exec, execRound, dif_neg (by omega)]
  rfl

/-- Every tuple of IDX names four different slots (R65, R84). -/
theorem distinctIndices_idxTable : ∀ i : Fin 8, distinctIndices (idxTable[i]).1 (idxTable[i]).2.1 (idxTable[i]).2.2.1
    (idxTable[i]).2.2.2 = true := by decide

theorem exec_roundWord_of_readable (r : Fin 10) (i : Fin 8) {s : State} (hs : mixReadable s = true) :
    exec (roundWord r i) s = .next (runMicro (gStep r i) s) := by
  obtain ⟨hv, hm⟩ := Bool.and_eq_true_iff.1 hs
  exact exec_g_of_written (selX r i) (selY r i) (distinctIndices_idxTable i) hv hm

end Sys2Proof.Machine

/-! ### Sequences of control words that read `v` and `m` -/

namespace Sys2Proof.Machine

open Sys2Proof.Safety

theorem execAll_cons_of_next {i : Instr} {s t : State} (h : exec i s = .next t) (rest : List Instr) :
    execAll (i :: rest) s = execAll rest t := by
  rw [execAll, h]

theorem execAll_singleton_of_next {i : Instr} {s t : State} (h : exec i s = .next t) : execAll [i] s = .next t :=
  execAll_cons_of_next h []

theorem execAll_append_of_next {xs : List Instr} {s t : State} (h : execAll xs s = .next t) (ys : List Instr) :
    execAll (xs ++ ys) s = execAll ys t := by
  induction xs generalizing s with
  | nil =>
    rw [execAll, Host.Outcome.next.injEq] at h
    rw [h, List.nil_append]
  | cons i xs ih =>
    cases hi : exec i s with
    | next u =>
      rw [execAll_cons_of_next hi] at h
      rw [List.cons_append, execAll_cons_of_next hi, ih h]
    | fault f => cases f
    | refused e => simp [execAll, hi] at h

/-- Groups of words that each run on readable sources, and leave them readable, run one after another. -/
theorem execAll_flatMap {α : Type} {words : α → List Instr} {f : State → α → State}
    (hrun : ∀ a s, mixReadable s = true → execAll (words a) s = .next (f s a))
    (hkeep : ∀ a s, (f s a).written = s.written) (l : List α) {s : State} (hs : mixReadable s = true) :
    execAll (l.flatMap words) s = .next (l.foldl f s) := by
  induction l generalizing s with
  | nil => rfl
  | cons a l ih =>
    rw [List.flatMap_cons, execAll_append_of_next (hrun a s hs), List.foldl_cons]
    exact ih (by rw [mixReadable, hkeep, ← mixReadable, hs])

theorem execAll_map {α : Type} {word : α → Instr} {f : State → α → State}
    (hrun : ∀ a s, mixReadable s = true → exec (word a) s = .next (f s a))
    (hkeep : ∀ a s, (f s a).written = s.written) (l : List α) {s : State} (hs : mixReadable s = true) :
    execAll (l.map word) s = .next (l.foldl f s) := by
  rw [List.map_eq_flatMap]
  exact execAll_flatMap (fun a s h => execAll_singleton_of_next (hrun a s h)) hkeep l hs

/-- The eight G of round `r` reach the state ROUND reaches (R92). -/
theorem execAll_roundWords (r : Fin 10) {s : State} (hs : mixReadable s = true) :
    execAll ((List.finRange 8).map (roundWord r)) s = .next (roundSteps r s) := by
  rw [roundSteps_eq_runOps, runOps, List.foldl_map]
  exact execAll_map (fun i s h => exec_roundWord_of_readable r i h) (fun i s => mix_written ..) _ hs

theorem roundSteps_written (r : Fin 10) (s : State) : (roundSteps r s).written = s.written := by
  rw [roundSteps_frame]

theorem execAll_tenRounds {s : State} (hs : mixReadable s = true) :
    execAll ((List.finRange 10).map fun r => .round (BitVec.ofNat 4 r.val)) s = .next (allRounds s) :=
  execAll_map (fun r _ h => exec_round_of_readable r h) roundSteps_written _ hs

theorem execAll_eightyG {s : State} (hs : mixReadable s = true) :
    execAll ((List.finRange 10).flatMap fun r => (List.finRange 8).map (roundWord r)) s = .next (allRounds s) :=
  execAll_flatMap (fun r _ h => execAll_roundWords r h) roundSteps_written _ hs

/-- F from sequencer position 0, the position a run of separate words keeps (R94, R96). -/
theorem compress_eq_fold_allRounds (s : State) : compress s = fold (allRounds (vinit { s with pc := 0 })) := by
  rw [compress_eq_ops, ← runOps_pc, microOps, runOps_append, runOps_append, runOps_flatMap]
  rfl

/-- Any words that run the ten rounds make up F when they stand between VINIT and FOLD (R94). -/
theorem execAll_vinit_rounds_fold {rounds : List Instr}
    (hrounds : ∀ s, mixReadable s = true → execAll rounds s = .next (allRounds s)) {s : State}
    (hh : s.written.h = true) (hm : s.written.m = true) (ht : s.written.t = true) (hf0 : s.written.f0 = true) :
    execAll ([.vinit] ++ rounds ++ [.fold]) { s with pc := 0 } = .next (compress s) := by
  have hvinit := exec_vinit_of_written (s := { s with pc := 0 }) hh ht hf0
  have hwritten : (allRounds (vinit { s with pc := 0 })).written = { s.written with v := true } := by
    rw [allRounds_frame, vinit_written]
  have hfold := exec_fold_of_written (s := allRounds (vinit { s with pc := 0 })) (by rw [hwritten, hh])
    (by rw [hwritten])
  rw [List.append_assoc, execAll_append_of_next (execAll_singleton_of_next hvinit),
    execAll_append_of_next (hrounds _ (mixReadable_of_written (by rw [vinit_written]) (by rw [vinit_written, hm]))),
    execAll_singleton_of_next hfold, compress_eq_fold_allRounds]

end Sys2Proof.Machine

/-! ### The working vector as a pure function (R90 to R94) -/

namespace Sys2Proof.Machine

open Sys2Proof.Safety

theorem workingVector_state (h : Vector Word 8) (t0 t1 : Word) (f0 : Bool) (i : Fin 8) :
    (workingVector h t0 t1 f0)[i.val] = h[i] := by
  fin_cases i <;> rfl

theorem workingVector_iv (h : Vector Word 8) (t0 t1 : Word) (f0 : Bool) (i : Fin 4) :
    (workingVector h t0 t1 f0)[8 + i.val] = iv[i.val] := by
  fin_cases i <;> rfl

theorem workingVector_flag (h : Vector Word 8) (t0 t1 : Word) (f0 : Bool) :
    (workingVector h t0 t1 f0)[14] = if f0 then 0xE07C2654 else 0x1F83D9AB := by
  cases f0 <;> rfl

theorem foldWords_getElem (h : Vector Word 8) (v : Vector Word 16) (i : Fin 8) :
    (foldWords h v)[i] = h[i] ^^^ v[i.val] ^^^ v[i.val + 8] := by
  simp [foldWords]

/-- The literal vector is what VINIT's pseudocode leaves: word 14 depends on the flag, every other word is the same. -/
theorem workingVector_eq_workingFn (h : Vector Word 8) (t0 t1 : Word) (f0 : Bool) :
    workingVector h t0 t1 f0 = workingFn h t0 t1 f0 := by
  refine Vector.ext fun i hi => ?_
  cases f0 <;> interval_cases i <;> simp [workingVector, workingFn]

/-- Step `i` of round `r` on a working vector, for the message words `m` (R92). -/
def stepFn (r : Fin 10) (m v : Vector Word 16) (i : Fin 8) : Vector Word 16 :=
  mixLines v (idxTable[i]).1 (idxTable[i]).2.1 (idxTable[i]).2.2.1 (idxTable[i]).2.2.2
    (getReg m (selX r i)) (getReg m (selY r i))

theorem roundFn_eq_foldl_stepFn (m v : Vector Word 16) (r : Fin 10) :
    roundFn m v r = (List.finRange 8).foldl (stepFn r m) v := rfl

theorem runMicro_gStep (r : Fin 10) (i : Fin 8) (s : State) :
    runMicro (gStep r i) s = { s with v := stepFn r s.m s.v i } := by
  rw [gStep, runMicro_g, mix, stepFn, mixLines_eq_mixVector _ (distinctIndices_idxTable i)]

/-- Steps that rewrite the working vector alone, reading it and `m`, are together a fold over the working vector. -/
theorem foldl_eq_foldl_working {α : Type} {f : State → α → State}
    {g : Vector Word 16 → Vector Word 16 → α → Vector Word 16}
    (hf : ∀ s a, f s a = { s with v := g s.m s.v a }) (l : List α) (s : State) :
    l.foldl f s = { s with v := l.foldl (g s.m) s.v } := by
  induction l generalizing s with
  | nil => rfl
  | cons a l ih => rw [List.foldl_cons, hf, ih, List.foldl_cons]

/-- A round is R92's fold of the eight assignment blocks. -/
theorem roundSteps_eq_roundFn (r : Fin 10) (s : State) : roundSteps r s = { s with v := roundFn s.m s.v r } := by
  rw [roundSteps_eq_runOps, runOps, List.foldl_map, roundFn_eq_foldl_stepFn]
  exact foldl_eq_foldl_working (fun s i => runMicro_gStep r i s) _ s

theorem allRounds_v (s : State) : (allRounds s).v = (List.finRange 10).foldl (roundFn s.m) s.v := by
  rw [allRounds, foldl_eq_foldl_working fun s r => roundSteps_eq_roundFn r s]

/-- The state words after F are the compression function's (R90, R94). -/
theorem compress_h_eq_compressFn (s : State) : (compress s).h = compressFn s.h s.m s.t0 s.t1 s.f0 := by
  rw [compress_h, allRounds_v, vinit_m, vinit_v, workingVector_eq_workingFn, foldWords, compressFn]

end Sys2Proof.Machine

/-! ### The obligations -/

namespace Sys2Proof.Proofs

open Sys2Proof.Machine Sys2Proof.Safety

/-- Settles O19: ROUND and its eight G words both reach `roundSteps`, which writes `v` alone. -/
theorem roundIsEightG : Obligations.RoundIsEightG := by
  unfold Obligations.RoundIsEightG
  refine ⟨fun r s hv hm => ?_, fun r s hr => exec_round_of_outOfRange hr s⟩
  have hs := mixReadable_of_written hv hm
  exact ⟨roundSteps r s, exec_round_of_readable r hs, roundSteps_frame r s, execAll_roundWords r hs⟩

/-- Settles O20: each step of `roundSteps` is one assignment block, so the round is their fold. -/
theorem roundComputesRoundFn : Obligations.RoundComputesRoundFn := by
  unfold Obligations.RoundComputesRoundFn
  intro r s hv hm
  rw [exec_round_of_readable r (mixReadable_of_written hv hm), roundSteps_eq_roundFn]

/-- Settles O21: both sequences put words that run the ten rounds between VINIT and FOLD. -/
theorem fIsVinitTenRoundsFold : Obligations.FIsVinitTenRoundsFold := by
  unfold Obligations.FIsVinitTenRoundsFold
  intro s hh hm ht hf0
  exact ⟨compress s, exec_f_of_written hh hm ht hf0,
    execAll_vinit_rounds_fold (fun _ => execAll_tenRounds) hh hm ht hf0,
    execAll_vinit_rounds_fold (fun _ => execAll_eightyG) hh hm ht hf0⟩

/-- Settles O22: F completes with `compress`, whose state words are the pure function's and whose frame is F's. -/
theorem fComputesCompression : Obligations.FComputesCompression := by
  unfold Obligations.FComputesCompression
  intro s hh hm ht hf0
  refine ⟨compress s, exec_f_of_written hh hm ht hf0, compress_h_eq_compressFn s, ?_⟩
  rw [← compress_written]
  exact compress_frame s

/-- Settles O17: VINIT completes and leaves `workingVector`, read word by word. -/
theorem vinitBuildsWorkingVector : Obligations.VinitBuildsWorkingVector := by
  unfold Obligations.VinitBuildsWorkingVector
  intro s hh ht hf0
  exact ⟨vinit s, exec_vinit_of_written hh ht hf0, by rw [vinit], workingVector_state s.h s.t0 s.t1 s.f0,
    workingVector_iv s.h s.t0 s.t1 s.f0, rfl, rfl, workingVector_flag s.h s.t0 s.t1 s.f0, rfl⟩

/-- Settles O18: FOLD completes, its state words are `foldWords`, and only the dead `v` changes besides. -/
theorem foldFoldsBothHalves : Obligations.FoldFoldsBothHalves := by
  unfold Obligations.FoldFoldsBothHalves
  intro s hh hv
  refine ⟨fold s, exec_fold_of_written hh hv, by rw [fold, releaseWorking], fun i => ?_⟩
  rw [fold_h, foldWords_getElem]

end Sys2Proof.Proofs

/-! PROOFS, family 43_initializer: what INIT answers, the state it builds (R110 to R117), the last block as the pure
functions read it, and the obligations they settle. -/

/-! ### What a directly issued INIT answers (R110, R111; log entry 6) -/

namespace Sys2Proof.Machine

open Sys2Proof.Safety

theorem initLengthError_of_badDigestLength {n : Byte} (hn : n.toNat < 1 ∨ 32 < n.toNat) (k : Byte) :
    initLengthError n k = some .badDigestLength := by
  rw [initLengthError, if_pos hn]

theorem initLengthError_of_badKeyLength {n k : Byte} (hn : 1 ≤ n.toNat) (hn' : n.toNat ≤ 32) (hk : 32 < k.toNat) :
    initLengthError n k = some .badKeyLength := by
  rw [initLengthError, if_neg (by omega), if_pos hk]

theorem exec_init_of_lengthError {n k : Byte} {s : State} {c : Cause} (h0 : s.phase = .idle)
    (hl : initLengthError n k = some c) : exec (.init n k) s = .next (afterException c.code s) := by
  simp only [exec, execInit, initState, if_pos h0, hl, conclude_raised, takeException, afterException]

theorem initReadable_of_written {k : Byte} {s : State} (hsalt : s.written.salt = true) (hpers : s.written.pers = true)
    (hkey : 0 < k.toNat → s.written.key = true) : initReadable k s = true := by
  rcases Nat.eq_zero_or_pos k.toNat with hk | hk
  · simp [initReadable, hsalt, hpers, hk]
  · simp [initReadable, hsalt, hpers, hkey hk]

theorem exec_init_of_readable {n k : Byte} {s : State} (h0 : s.phase = .idle) (hl : initLengthError n k = none)
    (hr : initReadable k s = true) : exec (.init n k) s = .next (initialized n k s) := by
  rw [exec, execInit, initState_done h0 hl hr, conclude_done]

/-! ### The state INIT builds (R113 to R115) -/

@[simp] theorem initialized_h (n k : Byte) (s : State) : (initialized n k s).h = initialWords n k s.salt s.pers := by
  rw [initialized]

@[simp] theorem initialized_phase (n k : Byte) (s : State) : (initialized n k s).phase = .continuing := by
  rw [initialized]

@[simp] theorem counter_initialized (n k : Byte) (s : State) : counter (initialized n k s) = 0 := by
  simp [counter, initialized]

theorem initialized_inq_of_unkeyed {k : Byte} (hk : k.toNat = 0) (n : Byte) (s : State) :
    (initialized n k s).inq = s.inq := by
  rw [initialized, if_neg (by omega)]

theorem initialized_inq_of_keyed {k : Byte} (hk : 0 < k.toNat) (n : Byte) (s : State) :
    (initialized n k s).inq = keyBlock s.key k.toNat ++ s.inq := by
  rw [initialized, if_pos hk]

/-- Parameter word 0 by its bytes is R113's disjunction of shifted fields. -/
theorem paramWord0_eq_or (n k : Byte) :
    paramWord0 n k = 0x01010000#32 ||| (k.setWidth 32 <<< 8) ||| n.setWidth 32 := by
  have hk : k.toNat <<< 8 < 2 ^ 32 := by rw [Nat.shiftLeft_eq]; omega
  refine BitVec.eq_of_toNat_eq ?_
  simp only [paramWord0, BitVec.toNat_append, BitVec.toNat_or, BitVec.toNat_shiftLeft, BitVec.toNat_ofNat,
    BitVec.toNat_setWidth_of_le (show 8 ≤ 32 by decide), Nat.shiftLeft_or_distrib, Nat.mod_eq_of_lt hk]
  rfl

/-- The initial state word by word: the parameter block is zero at words 1 to 3 (R61, R113, R114). -/
theorem initialWords_eq (n k : Byte) (salt pers : Vector Byte 8) : initialWords n k salt pers =
    #v[iv[0] ^^^ (0x01010000#32 ||| (k.setWidth 32 <<< 8) ||| n.setWidth 32), iv[1], iv[2], iv[3],
      iv[4] ^^^ le32 salt[0] salt[1] salt[2] salt[3], iv[5] ^^^ le32 salt[4] salt[5] salt[6] salt[7],
      iv[6] ^^^ le32 pers[0] pers[1] pers[2] pers[3], iv[7] ^^^ le32 pers[4] pers[5] pers[6] pers[7]] := by
  rw [← paramWord0_eq_or]
  refine Vector.ext fun i hi => ?_
  interval_cases i <;> simp [initialWords, paramBlock]

end Sys2Proof.Machine

/-! ### The last block as message words (R32, R36, R132) -/

namespace Sys2Proof.Machine

open Sys2Proof.Safety

theorem fillBlock_get_eq_getD_take (bytes : List Byte) (len j : Nat) (hj : j < 64) :
    (fillBlock bytes len)[j] = (bytes.take len).getD j 0 := by
  rw [fillBlock_get, List.getD_eq_getElem?_getD, List.getD_eq_getElem?_getD, List.getElem?_take]
  split_ifs <;> rfl

/-- Filling the block buffer and loading `m` reads the bytes taken as a zero-padded block. -/
theorem loadMessage_fillBlock (bytes : List Byte) (len : Nat) :
    loadMessage (fillBlock bytes len) = blockWords (bytes.take len) := by
  refine Vector.ext fun i hi => ?_
  simp only [loadMessage_get, blockWord, fillBlock_get_eq_getD_take, blockWords, wordAt, Vector.getElem_ofFn]

theorem getD_append_zeros (bytes : List Byte) (z j : Nat) :
    (bytes ++ List.replicate z 0).getD j 0 = bytes.getD j 0 := by
  rcases Nat.lt_or_ge j bytes.length with h | h
  · exact List.getD_append _ _ _ _ h
  · rw [List.getD_append_right _ _ _ _ h, List.getD_eq_default _ _ h]
    rw [List.getD_eq_getElem?_getD, List.getElem?_replicate]
    split_ifs <;> rfl

/-- Zeros after a block are its padding (R36). -/
theorem blockWords_append_zeros (bytes : List Byte) (z : Nat) :
    blockWords (bytes ++ List.replicate z 0) = blockWords bytes := by
  simp only [blockWords, wordAt, getD_append_zeros]

theorem blockWords_keyBlock (key : Vector Byte 32) (k : Nat) :
    blockWords (keyBlock key k) = blockWords (fieldBytes key k) :=
  blockWords_append_zeros _ _

/-! ### ABSORB and FINAL on the last block (R131, R132) -/

/-- ABSORB needs more than one block in the queue (R131). -/
theorem exec_absorb_of_inq_le {s : State} (hq : s.inq.length ≤ 64) : exec .absorb s = .next (afterException 6 s) := by
  rw [exec, execAbsorb, absorbState, if_neg (by omega), conclude_protocolError]

/-- When FINAL completes (R132, R133). -/
theorem exec_final_of_inq {len : BitVec 7} {s : State} (h64 : len.toNat ≤ 64) (hp : s.phase = .continuing)
    (hq : len.toNat = s.inq.length) (hc : counter s + len.toNat < 2 ^ 64) :
    exec (.final len) s = .next (finalized len.toNat s) := by
  rw [exec, execFinal, if_pos (by simpa [lengthInRange] using h64), finalState_done hp hq hc, conclude_done]

/-- The state words after FINAL are the compression of the bytes taken under the last-block flag (R132). -/
theorem finalized_h (len : Nat) (s : State) : (finalized len s).h =
    compressFn s.h (blockWords (s.inq.take len)) (finalized len s).t0 (finalized len s).t1 true := by
  rw [finalized_t0, finalized_t1, finalized, compress_h_eq_compressFn]
  simp [loadMessage_fillBlock]

end Sys2Proof.Machine

/-! ### The obligations -/

namespace Sys2Proof.Proofs

open Sys2Proof.Machine Sys2Proof.Safety

/-- Settles O25: INIT completes with `initialized`, whose state words are IV XOR parameter block, read word by word. -/
theorem initBuildsInitialState : Obligations.InitBuildsInitialState := by
  unfold Obligations.InitBuildsInitialState
  intro n k s h0 hn hn' hk hsalt hpers hkey
  have hexec := exec_init_of_readable h0 ((initLengthError_eq_none n k).2 ⟨hn, hn', hk⟩)
    (initReadable_of_written hsalt hpers hkey)
  refine ⟨initialized n k s, hexec, initialized_frame n k s, ?_⟩
  rw [initialized_h, initialWords_eq]
  refine ⟨rfl, rfl, rfl, rfl, rfl, rfl, rfl, rfl, fun hk0 => initialized_inq_of_unkeyed hk0 n s, fun hk1 => ?_⟩
  have hq := initialized_inq_of_keyed hk1 n s
  exact ⟨hq, by rw [hq, List.length_append, keyBlock_length _ hk]⟩

/-- Settles O28: the key block is the whole queue of INIT's state, 64 bytes long, so ABSORB is refused and FINAL 64 takes
it. -/
theorem keyBlockAloneIsFinal : Obligations.KeyBlockAloneIsFinal := by
  unfold Obligations.KeyBlockAloneIsFinal
  intro n k s h0 hn hn' hk0 hk hsalt hpers hkey hinq
  have hexec := exec_init_of_readable h0 ((initLengthError_eq_none n k).2 ⟨hn, hn', hk⟩)
    (initReadable_of_written hsalt hpers fun _ => hkey)
  have hq : (initialized n k s).inq = keyBlock s.key k.toNat := by
    rw [initialized_inq_of_keyed hk0, hinq, List.append_nil]
  have hlen : (initialized n k s).inq.length = 64 := by rw [hq, keyBlock_length _ hk]
  have hfinal := exec_final_of_inq (len := 64) (s := initialized n k s) (by decide) (initialized_phase n k s) hlen.symm
    (by rw [counter_initialized]; decide)
  have ht0 : (finalized 64 (initialized n k s)).t0 = 64 := by rw [finalized_t0, counter_initialized]; rfl
  have ht1 : (finalized 64 (initialized n k s)).t1 = 0 := by rw [finalized_t1, counter_initialized]; rfl
  refine ⟨initialized n k s, finalized 64 (initialized n k s), hexec, exec_absorb_of_inq_le hlen.le, hfinal,
    finalized_f0 .., ht0, ht1, finalized_phase .., ?_, ?_⟩
  · rw [finalized_inq, List.drop_eq_nil_of_le hlen.le]
  · rw [finalized_h, ht0, ht1, List.take_of_length_le hlen.le, hq, blockWords_keyBlock]

/-- Settles O26: in phase IDLE the length check answers first, and it looks at the digest length before the key length. -/
theorem initRejectsIllegalLengths : Obligations.InitRejectsIllegalLengths := by
  unfold Obligations.InitRejectsIllegalLengths
  exact fun n k s h0 => ⟨fun hn => exec_init_of_lengthError h0 (initLengthError_of_badDigestLength hn k),
    fun hn hn' hk => exec_init_of_lengthError h0 (initLengthError_of_badKeyLength hn hn' hk)⟩

end Sys2Proof.Proofs

/-! PROOFS, family 44_block_pipeline: what ABSORB and FINAL answer and leave in each register (R131, R132), the counter's
carry (R133), the run of the sequencing rule (R134, R136), the phase transitions (R138), and the obligations they settle. -/

/-! ### ABSORB and FINAL in phase CONTINUING (R131 to R133) -/

namespace Sys2Proof.Machine

open Sys2Proof.Safety

/-- When ABSORB completes (R131, R133). -/
theorem exec_absorb_of_inq {s : State} (hp : s.phase = .continuing) (hq : 64 < s.inq.length)
    (hc : counter s + 64 < 2 ^ 64) : exec .absorb s = .next (absorbed s) := by
  rw [exec, execAbsorb, absorbState_done hp hq hc, conclude_done]

theorem exec_absorb_of_passes {s : State} (hp : s.phase = .continuing) (hq : 64 < s.inq.length)
    (hc : 2 ^ 64 ≤ counter s + 64) : exec .absorb s = .refused .counterOverflow := by
  rw [exec, execAbsorb, absorbState, if_pos ⟨hp, hq⟩, if_pos ((counterPasses_iff 64 s).2 hc), conclude_refused]

theorem exec_final_of_passes {len : BitVec 7} {s : State} (h64 : len.toNat ≤ 64) (hp : s.phase = .continuing)
    (hq : len.toNat = s.inq.length) (hc : 2 ^ 64 ≤ counter s + len.toNat) :
    exec (.final len) s = .refused .counterOverflow := by
  rw [exec, execFinal, if_pos (by simpa [lengthInRange] using h64), finalState, if_pos ⟨hp, hq⟩,
    if_pos ((counterPasses_iff len.toNat s).2 hc), conclude_refused]

/-- An ABSORB that is allowed raises no exception: its next state is its own effect. -/
theorem eq_absorbed_of_exec {s t : State} (hp : s.phase = .continuing) (hq : 64 < s.inq.length)
    (h : exec .absorb s = .next t) : t = absorbed s := by
  rcases Nat.lt_or_ge (counter s + 64) (2 ^ 64) with hc | hc
  · rw [exec_absorb_of_inq hp hq hc, Host.Outcome.next.injEq] at h
    exact h.symm
  · rw [exec_absorb_of_passes hp hq hc] at h
    cases h

/-- A FINAL that is allowed raises no exception: its next state is its own effect. -/
theorem eq_finalized_of_exec {len : BitVec 7} {s t : State} (h64 : len.toNat ≤ 64) (hp : s.phase = .continuing)
    (hq : len.toNat = s.inq.length) (h : exec (.final len) s = .next t) : t = finalized len.toNat s := by
  rcases Nat.lt_or_ge (counter s + len.toNat) (2 ^ 64) with hc | hc
  · rw [exec_final_of_inq h64 hp hq hc, Host.Outcome.next.injEq] at h
    exact h.symm
  · rw [exec_final_of_passes h64 hp hq hc] at h
    cases h

/-! ### The block and the message words (R32, R35, R36) -/

/-- The block buffer holds the bytes taken, in order. -/
theorem getElem?_eq_some_fillBlock {inq : List Byte} {len : Nat} (hlen : len ≤ inq.length) {j : Fin 64}
    (hj : j.val < len) : inq[j.val]? = some (fillBlock inq len)[j] := by
  have hlt : j.val < inq.length := by omega
  rw [Fin.getElem_fin, fillBlock_get _ _ _ j.isLt, if_pos hj, List.getD_eq_getElem _ _ hlt, List.getElem?_eq_getElem hlt]

theorem fillBlock_get_of_le (inq : List Byte) {len : Nat} {j : Fin 64} (hj : len ≤ j.val) :
    (fillBlock inq len)[j] = 0 := by
  rw [Fin.getElem_fin, fillBlock_get _ _ _ j.isLt, if_neg (by omega)]

theorem loadMessage_get_le32 (B : Vector Byte 64) (i : Fin 16) :
    (loadMessage B)[i] = le32 B[4 * i.val] B[4 * i.val + 1] B[4 * i.val + 2] B[4 * i.val + 3] := by
  rw [Fin.getElem_fin, loadMessage_get _ _ i.isLt, blockWord]

/-- The state words after ABSORB, by the registers it leaves (R131). -/
theorem absorbed_h (s : State) : (absorbed s).h =
    compressFn s.h (absorbed s).m (absorbed s).t0 (absorbed s).t1 s.f0 := by
  rw [absorbed_m, absorbed_t0, absorbed_t1, absorbed, compress_h_eq_compressFn]
  simp

theorem absorbed_inq_length (s : State) : (absorbed s).inq.length = s.inq.length - 64 := by
  rw [absorbed_inq, List.length_drop]

/-! ### The counter's carry (R133) -/

theorem ofNat_counter_add (s : State) (inc : Nat) :
    BitVec.ofNat 32 (counter s + inc) = s.t0 + BitVec.ofNat 32 inc := by
  refine BitVec.eq_of_toNat_eq ?_
  simp only [counter, BitVec.toNat_add, BitVec.toNat_ofNat]
  omega

/-- An increment below 2^32 moves the high word by the carry out of the low one. -/
theorem ofNat_counter_add_div (s : State) {inc : Nat} (hinc : inc < 2 ^ 32) :
    BitVec.ofNat 32 ((counter s + inc) / 2 ^ 32) = if 2 ^ 32 ≤ s.t0.toNat + inc then s.t1 + 1 else s.t1 := by
  have ht0 := s.t0.isLt
  have ht1 := s.t1.isLt
  refine BitVec.eq_of_toNat_eq ?_
  split_ifs with hcarry
  · have hdiv : (counter s + inc) / 2 ^ 32 = s.t1.toNat + 1 := by simp only [counter]; omega
    rw [hdiv, BitVec.toNat_ofNat, BitVec.toNat_add]
    rfl
  · have hdiv : (counter s + inc) / 2 ^ 32 = s.t1.toNat := by simp only [counter]; omega
    rw [hdiv, BitVec.toNat_ofNat, Nat.mod_eq_of_lt ht1]

end Sys2Proof.Machine

/-! ### The run of the sequencing rule (R134, R136) -/

namespace Sys2Proof.Machine

open Sys2Proof.Safety

/-- An invocation that INIT has started and FINAL has not ended, with a counter that can take the waiting input. -/
structure Started (s : State) : Prop where
  continuing : s.phase = .continuing
  nonFinal : s.f0 = false
  fits : counter s + s.inq.length < 2 ^ 64

/-- The counter can take a block that is not the last. -/
theorem Started.fits_block {s : State} (hs : Started s) (hq : 64 < s.inq.length) : counter s + 64 < 2 ^ 64 := by
  have hfits := hs.fits
  omega

theorem started_absorbed {s : State} (hs : Started s) (hq : 64 < s.inq.length) : Started (absorbed s) where
  continuing := by rw [absorbed_phase, hs.continuing]
  nonFinal := by rw [absorbed_f0, hs.nonFinal]
  fits := by
    have hfits := hs.fits
    rw [counter_absorbed (hs.fits_block hq), absorbed_inq_length]
    omega

/-- The number of ABSORB that precede FINAL (R136's `N - 1`). -/
def nonFinalBlocks (s : State) : Nat := (s.inq.length - 1) / 64

theorem nonFinalBlocks_of_inq_le {s : State} (hq : s.inq.length ≤ 64) : nonFinalBlocks s = 0 := by
  rw [nonFinalBlocks]
  omega

theorem nonFinalBlocks_of_lt_inq {s : State} (hq : 64 < s.inq.length) :
    nonFinalBlocks s = nonFinalBlocks (absorbed s) + 1 := by
  rw [nonFinalBlocks, nonFinalBlocks, absorbed_inq_length]
  omega

theorem lt_inq_of_lt_nonFinalBlocks {k : Nat} {s : State} (hk : k < nonFinalBlocks s) : 64 < s.inq.length := by
  rw [nonFinalBlocks] at hk
  omega

/-- `k` ABSORB within an input run to completion and stay within the started invocation, each taking 64 bytes. -/
theorem execAll_absorbs {k : Nat} {s : State} (hs : Started s) (hk : k ≤ nonFinalBlocks s) :
    execAll (List.replicate k .absorb) s = .next (absorbed^[k] s) ∧ Started (absorbed^[k] s) ∧
      counter (absorbed^[k] s) = counter s + 64 * k ∧ (absorbed^[k] s).inq = s.inq.drop (64 * k) := by
  induction k generalizing s with
  | zero => exact ⟨rfl, hs, by simp, by simp⟩
  | succ k ih =>
    have hq := lt_inq_of_lt_nonFinalBlocks hk
    rw [nonFinalBlocks_of_lt_inq hq] at hk
    obtain ⟨hrun, hstarted, hcounter, hinq⟩ := ih (started_absorbed hs hq) (by omega)
    have hfirst := exec_absorb_of_inq hs.continuing hq (hs.fits_block hq)
    rw [List.replicate_succ, execAll_cons_of_next hfirst, Function.iterate_succ_apply]
    refine ⟨hrun, hstarted, ?_, ?_⟩
    · rw [hcounter, counter_absorbed (hs.fits_block hq)]
      omega
    · rw [hinq, absorbed_inq, List.drop_drop]
      congr 1
      omega

/-- The state in which FINAL finds the machine. -/
def beforeFinal (s : State) : State := absorbed^[nonFinalBlocks s] s

theorem beforeFinal_of_inq_le {s : State} (hq : s.inq.length ≤ 64) : beforeFinal s = s := by
  rw [beforeFinal, nonFinalBlocks_of_inq_le hq, Function.iterate_zero_apply]

theorem beforeFinal_of_lt_inq {s : State} (hq : 64 < s.inq.length) : beforeFinal s = beforeFinal (absorbed s) := by
  rw [beforeFinal, nonFinalBlocks_of_lt_inq hq, Function.iterate_succ_apply, beforeFinal]

/-- The loop's fuel suffices for the blocks that come before the last one. -/
theorem absorbWhile_eq_beforeFinal {fuel : Nat} {s : State} (hs : Started s) (hfuel : s.inq.length ≤ 64 * (fuel + 1)) :
    absorbWhile fuel s = .done (beforeFinal s) := by
  induction fuel generalizing s with
  | zero => rw [absorbWhile, beforeFinal_of_inq_le (by omega)]
  | succ fuel ih =>
    rw [absorbWhile]
    split_ifs with hq
    · have hlen : (absorbed s).inq.length ≤ 64 * (fuel + 1) := by rw [absorbed_inq_length]; omega
      rw [absorbState_done hs.continuing hq (hs.fits_block hq), andThen_done,
        ih (started_absorbed hs hq) hlen, beforeFinal_of_lt_inq hq]
    · rw [beforeFinal_of_inq_le (by omega)]

/-- One ABSORB of a started invocation is one non-final block of PIPE_fn. -/
theorem absorbed_h_of_started {s : State} (hs : Started s) : (absorbed s).h =
    compressFn s.h (blockWords (s.inq.take 64)) (countLow (counter s + 64)) (countHigh (counter s + 64)) false := by
  rw [absorbed_h, absorbed_m, loadMessage_fillBlock, absorbed_t0, absorbed_t1, hs.nonFinal, countLow, countHigh]

/-- FINAL with all that waits is the last block of PIPE_fn. -/
theorem finalized_inq_length_h (s : State) : (finalized s.inq.length s).h =
    compressFn s.h (blockWords s.inq) (countLow (counter s + s.inq.length)) (countHigh (counter s + s.inq.length))
      true := by
  rw [finalized_h, List.take_length, finalized_t0, finalized_t1, countLow, countHigh]

theorem pipeFn_of_le (fuel : Nat) (h : Vector Word 8) (t : Nat) {bytes : List Byte} (hb : bytes.length ≤ 64) :
    pipeFn fuel h t bytes =
      compressFn h (blockWords bytes) (countLow (t + bytes.length)) (countHigh (t + bytes.length)) true := by
  cases fuel with
  | zero => rw [pipeFn]
  | succ fuel => rw [pipeFn, if_neg (by omega)]

theorem pipeFn_succ_of_lt (fuel : Nat) (h : Vector Word 8) (t : Nat) {bytes : List Byte} (hb : 64 < bytes.length) :
    pipeFn (fuel + 1) h t bytes =
      pipeFn fuel (compressFn h (blockWords (bytes.take 64)) (countLow (t + 64)) (countHigh (t + 64)) false) (t + 64)
        (bytes.drop 64) := by
  rw [pipeFn, if_pos hb]

/-- PIPE_fn is the state words of the ABSORB run and FINAL (R130, R134). -/
theorem finalized_beforeFinal_h {fuel : Nat} {s : State} (hs : Started s) (hfuel : s.inq.length ≤ 64 * (fuel + 1)) :
    (finalized (beforeFinal s).inq.length (beforeFinal s)).h = pipeFn fuel s.h (counter s) s.inq := by
  induction fuel generalizing s with
  | zero =>
    have hq : s.inq.length ≤ 64 := by omega
    rw [beforeFinal_of_inq_le hq, pipeFn_of_le _ _ _ hq, finalized_inq_length_h]
  | succ fuel ih =>
    rcases Nat.lt_or_ge 64 s.inq.length with hq | hq
    · have hlen : (absorbed s).inq.length ≤ 64 * (fuel + 1) := by rw [absorbed_inq_length]; omega
      rw [beforeFinal_of_lt_inq hq, ih (started_absorbed hs hq) hlen, pipeFn_succ_of_lt _ _ _ hq, absorbed_h_of_started hs,
        counter_absorbed (hs.fits_block hq), absorbed_inq]
    · rw [beforeFinal_of_inq_le hq, pipeFn_of_le _ _ _ hq, finalized_inq_length_h]

/-- FINAL finds a started invocation with the last block in the queue and every block before it counted (R136). -/
theorem started_beforeFinal {s : State} (hs : Started s) : Started (beforeFinal s) ∧
    counter (beforeFinal s) = counter s + 64 * nonFinalBlocks s ∧
    (beforeFinal s).inq.length = s.inq.length - 64 * nonFinalBlocks s := by
  obtain ⟨-, hstarted, hcounter, hinq⟩ := execAll_absorbs hs le_rfl
  exact ⟨hstarted, hcounter, by rw [beforeFinal, hinq, List.length_drop]⟩

/-- The sequencing rule on a started invocation: the state it ends in and PIPE_fn of the input (R134, R140). -/
theorem pipeline_eq_finalized {s : State} (hs : Started s) :
    pipeline s = .done (finalized (beforeFinal s).inq.length (beforeFinal s)) ∧
    (finalized (beforeFinal s).inq.length (beforeFinal s)).h = pipeFn s.inq.length s.h (counter s) s.inq := by
  obtain ⟨hstarted, -, -⟩ := started_beforeFinal hs
  refine ⟨?_, finalized_beforeFinal_h hs (by omega)⟩
  rw [pipeline, absorbWhile_eq_beforeFinal hs (by omega), andThen_done,
    finalState_done hstarted.continuing rfl hstarted.fits]

/-- The words the sequencing rule issues, issued one by one (R136). -/
theorem execAll_absorbs_final {s : State} (hs : Started s) :
    execAll (List.replicate (nonFinalBlocks s) .absorb ++
        [.final (BitVec.ofNat 7 (s.inq.length - 64 * nonFinalBlocks s))]) s =
      .next (finalized (beforeFinal s).inq.length (beforeFinal s)) := by
  obtain ⟨hrun, -⟩ := execAll_absorbs hs le_rfl
  obtain ⟨hstarted, -, hlen⟩ := started_beforeFinal hs
  have h64 : (beforeFinal s).inq.length ≤ 64 := by
    rw [hlen, nonFinalBlocks]
    omega
  have hnat : (BitVec.ofNat 7 (beforeFinal s).inq.length).toNat = (beforeFinal s).inq.length := by
    rw [BitVec.toNat_ofNat]
    omega
  have hfinal := exec_final_of_inq (len := BitVec.ofNat 7 (beforeFinal s).inq.length) (by rwa [hnat]) hstarted.continuing
    hnat (by rw [hnat]; exact hstarted.fits)
  rw [execAll_append_of_next hrun, ← hlen, ← beforeFinal, execAll_singleton_of_next hfinal, hnat]

end Sys2Proof.Machine

/-! ### The phase register (R20, R138) -/

namespace Sys2Proof.Machine

@[simp] theorem extracted_phase (s : State) : (extracted s).phase = .idle := by simp [extracted]

theorem extracted_digestOut_isSome (s : State) : (extracted s).digestOut.isSome = true := by simp [extracted]

end Sys2Proof.Machine

/-! ### The obligations -/

namespace Sys2Proof.Proofs

open Sys2Proof.Machine Sys2Proof.Safety

/-- Settles O32: the ABSORB run and FINAL reach the state of the sequencing rule, and PIPE_fn takes the input block by
block as they do. -/
theorem inputTakesItsBlocksInOrder : Obligations.InputTakesItsBlocksInOrder := by
  unfold Obligations.InputTakesItsBlocksInOrder
  intro s hp hf0 hc
  have hs : Started s := ⟨hp, hf0, hc⟩
  obtain ⟨hpipeline, hh⟩ := pipeline_eq_finalized hs
  refine ⟨fun k hk => ?_, finalized (beforeFinal s).inq.length (beforeFinal s), execAll_absorbs_final hs, hpipeline,
    finalized_phase .., finalized_f0 .., ?_, ?_, hh⟩
  · obtain ⟨hrun, hstarted, hcounter, hinq⟩ := execAll_absorbs hs hk
    exact ⟨absorbed^[k] s, hrun, hcounter, hinq, hstarted.continuing⟩
  · rw [finalized_inq, List.drop_length]
  · obtain ⟨hstarted, hcounter, hlen⟩ := started_beforeFinal hs
    rw [counter_finalized hstarted.fits, hcounter, hlen, nonFinalBlocks]
    omega

/-- Settles O29: ABSORB completes with `absorbed`, read register by register. -/
theorem absorbCompressesOneBlock : Obligations.AbsorbCompressesOneBlock := by
  unfold Obligations.AbsorbCompressesOneBlock
  intro s hp hq hc
  refine ⟨absorbed s, exec_absorb_of_inq hp hq hc, fun j => ?_, absorbed_inq s, fun i => ?_, counter_absorbed hc,
    absorbed_h s, absorbed_frame s⟩
  · rw [absorbed_B]
    exact getElem?_eq_some_fillBlock hq.le j.isLt
  · rw [absorbed_m, loadMessage_get_le32, absorbed_B]

/-- Settles O30: FINAL completes with `finalized`, read register by register. -/
theorem finalCompressesLastBlock : Obligations.FinalCompressesLastBlock := by
  unfold Obligations.FinalCompressesLastBlock
  intro len s h64 hp hq hc
  refine ⟨finalized len.toNat s, exec_final_of_inq h64 hp hq hc, fun j hj => ?_, fun j hj => ?_, fun i => ?_,
    counter_finalized hc, ?_, finalized_frame hq⟩
  · rw [finalized_B]
    exact getElem?_eq_some_fillBlock hq.le hj
  · rw [finalized_B, fillBlock_get_of_le _ hj]
  · rw [finalized_m, loadMessage_get_le32, finalized_B]
  · rw [finalized_h, finalized_m, loadMessage_fillBlock]

/-- Settles O31: the counter is one 64-bit sum, split into its words; where it would pass, the word is refused. -/
theorem counterCarriesIntoHighWord : Obligations.CounterCarriesIntoHighWord := by
  unfold Obligations.CounterCarriesIntoHighWord
  refine ⟨fun s t hp hq h => ?_, fun len s t hp hq h64 h => ?_, fun s hp hq hc => exec_absorb_of_passes hp hq hc,
    fun len s hp hq h64 hc => exec_final_of_passes h64 hp hq hc⟩
  · rw [eq_absorbed_of_exec hp hq h, absorbed_t0, absorbed_t1]
    exact ⟨ofNat_counter_add s 64, ofNat_counter_add_div s (by decide)⟩
  · rw [eq_finalized_of_exec h64 hp hq h, finalized_t0, finalized_t1, ← BitVec.ofNat_toNat]
    exact ⟨ofNat_counter_add s len.toNat, ofNat_counter_add_div s (by omega)⟩

/-- Settles O44: by the inversion of `exec`; each word's effect has the phase, flag and counter its row of R138 names. -/
theorem phaseTransitionsAreComplete : Obligations.PhaseTransitionsAreComplete := by
  unfold Obligations.PhaseTransitionsAreComplete
  intro i s t h
  rcases exec_cases h with ⟨c, rfl⟩ | he
  · exact .inl ⟨c, rfl⟩
  right
  cases i with
  | g a b c d sx sy => obtain ⟨rfl, -⟩ := he; exact mix_phase ..
  | vinit => obtain ⟨rfl, -⟩ := he; exact vinit_phase s
  | fold => obtain ⟨rfl, -⟩ := he; exact fold_phase s
  | round r => obtain ⟨hr, rfl, -⟩ := he; rw [roundSteps_frame]
  | f => obtain ⟨rfl, -⟩ := he; exact compress_phase s
  | init n k =>
    obtain ⟨rfl, hp, hl, -⟩ := he
    obtain ⟨hn, hn', hk⟩ := (initLengthError_eq_none n k).1 hl
    exact ⟨hp, hn, hn', hk, initialized_phase n k s, by rw [initialized_frame], counter_initialized n k s⟩
  | absorb =>
    obtain ⟨rfl, hp, hq, hc⟩ := he
    exact ⟨hp, hq, by rw [absorbed_phase, hp], counter_absorbed hc⟩
  | final len =>
    obtain ⟨rfl, hp, hq, hc⟩ := he
    exact ⟨hp, hq, finalized_phase .., counter_finalized hc, finalized_f0 ..⟩
  | extract => obtain ⟨rfl, hp⟩ := he; exact ⟨hp, extracted_phase s, extracted_digestOut_isSome s⟩
  | hash n klen slen plen =>
    obtain ⟨hp, u, rfl, -⟩ := he
    exact ⟨hp, by rw [respond_phase, extracted_phase]⟩
  | hash256 =>
    obtain ⟨hp, u, rfl, -⟩ := he
    exact ⟨hp, by rw [respond_phase, extracted_phase]⟩

end Sys2Proof.Proofs

/-! PROOFS, family 45_digest_extractor: what EXTRACT answers (R150 to R153), the digest buffer as the serialized state, and
the obligations they settle. -/

/-! ### What EXTRACT answers (R150, R153) -/

namespace Sys2Proof.Machine

open Sys2Proof.Safety

/-- When EXTRACT completes (R150). -/
theorem exec_extract_of_final {s : State} (hp : s.phase = .final) : exec .extract s = .next (extracted s) := by
  rw [exec, execExtract, extractState_done hp, conclude_done]

theorem exec_extract_of_phase_ne {s : State} (hp : s.phase ≠ .final) :
    exec .extract s = .next (afterException 6 s) := by
  rw [exec, execExtract, extractState, if_neg hp, conclude_protocolError]

end Sys2Proof.Machine

/-! ### The serialized state and the digest (R151, R152) -/

namespace Sys2Proof.Machine

open Sys2Proof.Safety

@[simp] theorem extracted_D (s : State) : (extracted s).D = serialize s.h s.D := by rw [extracted, releaseInvocation_D]

@[simp] theorem extracted_digestOut (s : State) :
    (extracted s).digestOut = some ((serialize s.h s.D).toList.take s.nn.toNat) := by
  rw [extracted, releaseInvocation_digestOut]

/-- Word `i` of the state stands little-endian at byte address `4i` (R151). -/
theorem serialize_get_of_word (h : Vector Word 8) (D : Vector Byte 32) (i : Fin 8) (j : Fin 4) :
    (serialize h D)[4 * i.val + j.val] = byteOf h[i] j.val := by
  have hi : (4 * i.val + j.val) / 4 = i.val := by omega
  have hj : (4 * i.val + j.val) % 4 = j.val := by omega
  simp only [serialize_get, hi, hj, Fin.getElem_fin]

/-- What the buffer held before EXTRACT does not show in the digest: its first `n` bytes are EXTRACT_fn's (R150). -/
theorem take_serialize_eq_extractFn (h : Vector Word 8) (D : Vector Byte 32) (n : Nat) :
    (serialize h D).toList.take n = extractFn h n := by
  refine congrArg (List.take n) (List.ext_getElem (by simp) fun p hp _ => ?_)
  rw [Vector.length_toList] at hp
  simp [serialize_get _ _ p hp]

end Sys2Proof.Machine

/-! ### The obligations -/

namespace Sys2Proof.Proofs

open Sys2Proof.Machine Sys2Proof.Safety

/-- Settles O34: EXTRACT completes with `extracted`, whose buffer is the state word by word and whose digest is
EXTRACT_fn's. -/
theorem extractSerializesState : Obligations.ExtractSerializesState := by
  unfold Obligations.ExtractSerializesState
  intro s hp
  refine ⟨extracted s, exec_extract_of_final hp, fun i j => ?_, ?_, ?_, extracted_phase s⟩
  · simp only [extracted_D]
    exact serialize_get_of_word s.h s.D i j
  · rw [extracted_digestOut, extracted_D]
  · rw [extracted_digestOut, take_serialize_eq_extractFn]

/-- Settles O35: EXTRACT leaves phase IDLE, in which a second EXTRACT raises code 6. -/
theorem secondExtractIsProtocolError : Obligations.SecondExtractIsProtocolError := by
  unfold Obligations.SecondExtractIsProtocolError
  intro s hp
  have hidle := extracted_phase s
  exact ⟨extracted s, exec_extract_of_final hp, hidle, exec_extract_of_phase_ne (by rw [hidle]; decide)⟩

end Sys2Proof.Proofs

/-! PROOFS, family 46_host_interface: the state in which HASH ends and its digest as HASH_fn gives it (R161), what HASH
answers (R160 to R164), what another request beyond the lengths changes (D26), and the obligations they settle. -/

/-! ### The request's fields as HASH loads them (R161, R165, D26) -/

namespace Sys2Proof.Machine

open Sys2Proof.Safety

theorem length_fieldBytes {n : Nat} (bytes : Vector Byte n) {len : Nat} (hlen : len ≤ n) :
    (fieldBytes bytes len).length = len := by
  simp [fieldBytes, hlen]

/-- A loaded field is the stated bytes followed by zeros. -/
theorem zeroFill_get {n : Nat} (bytes : Vector Byte n) (len j : Nat) (hj : j < n) :
    (zeroFill bytes len)[j] = (fieldBytes bytes len).getD j 0 := by
  rw [zeroFill, Vector.getElem_ofFn, fieldBytes, List.getD_eq_getElem?_getD, List.getElem?_take]
  split_ifs <;> simp [hj]

theorem fieldBytes_zeroFill {n : Nat} (bytes : Vector Byte n) (len : Nat) :
    fieldBytes (zeroFill bytes len) len = fieldBytes bytes len := by
  refine List.ext_getElem (by simp [fieldBytes]) fun j hj _ => ?_
  have hlt : j < len := by rw [fieldBytes, List.length_take] at hj; omega
  simp [fieldBytes, zeroFill, hlt]

theorem zeroFill_congr {n len : Nat} {bytes bytes' : Vector Byte n}
    (h : ∀ j : Fin n, j.val < len → bytes[j] = bytes'[j]) : zeroFill bytes len = zeroFill bytes' len := by
  refine Vector.ext fun j hj => ?_
  simp only [zeroFill, Vector.getElem_ofFn]
  split_ifs with hlt
  · exact h ⟨j, hj⟩ hlt
  · rfl

theorem length_keyPrefix_fieldBytes (key : Vector Byte 32) {k : Nat} (hk : k ≤ 32) :
    (keyPrefix (fieldBytes key k)).length = if 0 < k then 64 else 0 := by
  rw [keyPrefix, length_fieldBytes key hk]
  rcases Nat.eq_zero_or_pos k with h0 | hpos
  · simp [h0]
  · rw [if_neg hpos.ne', if_pos hpos, List.length_append, length_fieldBytes key hk, List.length_replicate]
    omega

/-- The initial state words on zero-filled fields are INIT_fn's on fields padded to 8 bytes (R110, R113). -/
theorem initialWords_zeroFill (n k : Byte) (salt pers : Vector Byte 8) (slen plen zs zp : Nat) :
    initialWords n k (zeroFill salt slen) (zeroFill pers plen) =
      initFn n k (fieldBytes salt slen ++ List.replicate zs 0) (fieldBytes pers plen ++ List.replicate zp 0) := by
  rw [initialWords_eq]
  refine Vector.ext fun i hi => ?_
  simp only [initFn, Vector.getElem_ofFn, paramFn, wordAt, getD_append_zeros, zeroFill_get]
  interval_cases i <;> simp

end Sys2Proof.Machine

/-! ### The state in which HASH ends (R161) -/

namespace Sys2Proof.Machine

open Sys2Proof.Safety

/-- The state INIT leaves within HASH: the request loaded, the invocation started. -/
def hashStart (n klen : Byte) (slen plen : Index) (s : State) : State :=
  initialized n klen (loadRequest klen.toNat slen.toNat plen.toNat s)

/-- The state FINAL leaves within HASH: the whole input taken. -/
def hashFinal (n klen : Byte) (slen plen : Index) (s : State) : State :=
  finalized (beforeFinal (hashStart n klen slen plen s)).inq.length (beforeFinal (hashStart n klen slen plen s))

/-- The state in which HASH ends: the digest extracted and sent. -/
def hashEnd (n klen : Byte) (slen plen : Index) (s : State) : State :=
  respond n.toNat (extracted (hashFinal n klen slen plen s))

/-- The digest HASH_fn gives for a request with these lengths. -/
def requestDigest (n klen : Byte) (slen plen : Index) (r : Request) : List Byte :=
  digestFn r.msg (fieldBytes r.keyD klen.toNat) n (fieldBytes r.saltD slen.toNat) (fieldBytes r.persD plen.toNat)

/-- HASH takes in the key block, when there is a key, and then the message. -/
theorem hashStart_inq {klen : Byte} (hk : klen.toNat ≤ 32) (n : Byte) (slen plen : Index) (s : State) :
    (hashStart n klen slen plen s).inq = keyPrefix (fieldBytes s.request.keyD klen.toNat) ++ s.request.msg := by
  have hlen := length_fieldBytes s.request.keyD hk
  rw [keyPrefix, hlen, hashStart]
  rcases Nat.eq_zero_or_pos klen.toNat with h0 | hpos
  · rw [initialized_inq_of_unkeyed h0, if_pos h0, loadRequest_inq, List.nil_append]
  · rw [initialized_inq_of_keyed hpos, if_neg hpos.ne', loadRequest_inq, loadRequest_key, keyBlock, ← fieldBytes,
      fieldBytes_zeroFill]

theorem length_hashStart_inq {klen : Byte} (hk : klen.toNat ≤ 32) (n : Byte) (slen plen : Index) (s : State) :
    (hashStart n klen slen plen s).inq.length = inputLength klen s := by
  rw [hashStart_inq hk, List.length_append, length_keyPrefix_fieldBytes _ hk, inputLength]

theorem started_hashStart {klen : Byte} {s : State} (hk : klen.toNat ≤ 32) (hm : inputLength klen s ≤ Config.maxInput)
    (n : Byte) (slen plen : Index) : Started (hashStart n klen slen plen s) where
  continuing := initialized_phase ..
  nonFinal := by rw [hashStart, initialized_frame]
  fits := by
    rw [length_hashStart_inq hk, hashStart, counter_initialized, Nat.zero_add]
    exact Nat.lt_of_le_of_lt hm (by decide)

theorem hashFinal_phase (n klen : Byte) (slen plen : Index) (s : State) :
    (hashFinal n klen slen plen s).phase = .final := by
  rw [hashFinal, finalized_phase]

/-- The state words before EXTRACT are PIPE_fn's on the loaded request (R140, R161). -/
theorem pipeline_hashStart {klen : Byte} {s : State} (hk : klen.toNat ≤ 32)
    (hm : inputLength klen s ≤ Config.maxInput) (n : Byte) (slen plen : Index) :
    pipeline (hashStart n klen slen plen s) = .done (hashFinal n klen slen plen s) ∧
    (hashFinal n klen slen plen s).h =
      pipeFn (hashStart n klen slen plen s).inq.length (hashStart n klen slen plen s).h 0
        (hashStart n klen slen plen s).inq := by
  have hcounter : counter (hashStart n klen slen plen s) = 0 := counter_initialized ..
  have h := pipeline_eq_finalized (started_hashStart hk hm n slen plen)
  rwa [hcounter, ← hashFinal] at h

theorem initState_loadRequest {n klen : Byte} {slen plen : Index} {s : State} (h0 : s.phase = .idle)
    (hl : hashLengthError n klen slen plen = none) :
    initState n klen (loadRequest klen.toNat slen.toNat plen.toNat s) = .done (hashStart n klen slen plen s) := by
  obtain ⟨hn, hn', hk, -, -⟩ := (hashLengthError_eq_none ..).1 hl
  rw [hashStart, initState_done (by rw [loadRequest_phase, h0]) ((initLengthError_eq_none n klen).2 ⟨hn, hn', hk⟩)
    (initReadable_loadRequest ..)]

/-- HASH with legal lengths and an input within MAX_INPUT ends in `hashEnd` (R161). -/
theorem hashState_eq_hashEnd {n klen : Byte} {slen plen : Index} {s : State} (h0 : s.phase = .idle)
    (hl : hashLengthError n klen slen plen = none) (hm : inputLength klen s ≤ Config.maxInput) :
    hashState n klen slen plen s = .done (hashEnd n klen slen plen s) := by
  obtain ⟨-, -, hk, -, -⟩ := (hashLengthError_eq_none ..).1 hl
  obtain ⟨hpipeline, -⟩ := pipeline_hashStart hk hm n slen plen
  rw [hashState, if_pos h0, hl, hashEnd]
  simp only
  rw [if_neg (Nat.not_lt.2 hm), invocation, initState_loadRequest h0 hl, andThen_done, hpipeline, andThen_done,
    extractState_done (hashFinal_phase ..), andThen_done]

/-- The first `n` bytes of `D` are then HASH_fn's digest (R161). -/
theorem take_hashEnd_D {n klen : Byte} {slen plen : Index} {s : State} (hl : hashLengthError n klen slen plen = none)
    (hm : inputLength klen s ≤ Config.maxInput) :
    (hashEnd n klen slen plen s).D.toList.take n.toNat = requestDigest n klen slen plen s.request := by
  obtain ⟨-, -, hk, -, -⟩ := (hashLengthError_eq_none ..).1 hl
  obtain ⟨-, hpipe⟩ := pipeline_hashStart hk hm n slen plen
  have hlen := length_fieldBytes s.request.keyD hk
  have hh : (hashStart n klen slen plen s).h = initialWords n klen (zeroFill s.request.saltD slen.toNat)
      (zeroFill s.request.persD plen.toNat) := by
    rw [hashStart, initialized_h, loadRequest_salt, loadRequest_pers]
  rw [hashEnd, respond_D, extracted_D, take_serialize_eq_extractFn, hpipe, hh, hashStart_inq hk]
  simp only [requestDigest, digestFn, hlen, BitVec.ofNat_toNat, BitVec.setWidth_eq]
  rw [initialWords_zeroFill]

theorem hashEnd_response {n klen : Byte} {slen plen : Index} {s : State} (hl : hashLengthError n klen slen plen = none)
    (hm : inputLength klen s ≤ Config.maxInput) :
    (hashEnd n klen slen plen s).response = some ⟨0, some (requestDigest n klen slen plen s.request)⟩ := by
  rw [← take_hashEnd_D hl hm, hashEnd, respond_response, respond_D]

theorem hashEnd_status (n klen : Byte) (slen plen : Index) (s : State) : (hashEnd n klen slen plen s).status = 0 :=
  respond_status ..

theorem hashEnd_phase (n klen : Byte) (slen plen : Index) (s : State) : (hashEnd n klen slen plen s).phase = .idle := by
  rw [hashEnd, respond_phase, extracted_phase]

end Sys2Proof.Machine

/-! ### What HASH and HASH256 answer (R160 to R164) -/

namespace Sys2Proof.Machine

open Sys2Proof.Safety

theorem exec_hash256_eq (s : State) : exec .hash256 s = exec (.hash 32 0 0 0) s := by
  rw [exec, exec, execHash256, execHash]

theorem exec_hash_of_legal {n klen : Byte} {slen plen : Index} {s : State} (h0 : s.phase = .idle)
    (hl : hashLengthError n klen slen plen = none) (hm : inputLength klen s ≤ Config.maxInput) :
    exec (.hash n klen slen plen) s = .next (hashEnd n klen slen plen s) := by
  rw [exec, execHash, hashState_eq_hashEnd h0 hl hm, conclude_done]

theorem exec_hash_of_tooLong {n klen : Byte} {slen plen : Index} {s : State} (h0 : s.phase = .idle)
    (hl : hashLengthError n klen slen plen = none) (hm : Config.maxInput < inputLength klen s) :
    exec (.hash n klen slen plen) s = .refused .inputTooLong := by
  simp only [exec, execHash, hashState, if_pos h0, hl, if_pos hm, conclude_refused]

theorem exec_hash_of_lengthError {n klen : Byte} {slen plen : Index} {s : State} {c : Cause} (h0 : s.phase = .idle)
    (hl : hashLengthError n klen slen plen = some c) :
    exec (.hash n klen slen plen) s = .next (takeException c s) := by
  simp only [exec, execHash, hashState, if_pos h0, hl, conclude_raised]

theorem exec_hash_of_busy {s : State} (h0 : s.phase ≠ .idle) (n klen : Byte) (slen plen : Index) :
    exec (.hash n klen slen plen) s = .next (takeException .protocolError s) := by
  rw [exec, execHash, hashState, if_neg h0, conclude_raised]

/-- What a completed HASH leaves of the state besides its answer (R161; log entry 8). -/
theorem hashEnd_keeps {n klen : Byte} {slen plen : Index} {s : State} (h0 : s.phase = .idle)
    (hl : hashLengthError n klen slen plen = none) (hm : inputLength klen s ≤ Config.maxInput) :
    (hashEnd n klen slen plen s).inq = [] ∧ (hashEnd n klen slen plen s).pc = 0 ∧
    (hashEnd n klen slen plen s).f1 = s.f1 ∧ (hashEnd n klen slen plen s).request = s.request ∧
    (hashEnd n klen slen plen s).pending = s.pending ∧ (hashEnd n klen slen plen s).resetPin = s.resetPin := by
  obtain ⟨u, hu, hinq, hpc, hf1, hreq, hpend, hpin⟩ := hashState_done h0 hl hm
  rw [hashState_eq_hashEnd h0 hl hm, Result.done.injEq] at hu
  obtain ⟨ef1, ereq, epend, epin⟩ := respond_extracted_keeps n.toNat hf1 hreq hpend hpin
  obtain ⟨-, einq, epc, -⟩ := extracted_keeps u
  rw [hu]
  exact ⟨by rw [respond_inq, einq, hinq], by rw [respond_pc, epc, hpc], ef1, ereq, epend, epin⟩

/-- On an idle core HASH answers by its request alone (R163): the cases of its own checks. -/
theorem exec_hash_response_congr {s₁ s₂ : State} (hreq : s₁.request = s₂.request) (h₁ : s₁.phase = .idle)
    (h₂ : s₂.phase = .idle) (n klen : Byte) (slen plen : Index) :
    (∃ t₁ t₂, exec (.hash n klen slen plen) s₁ = .next t₁ ∧ exec (.hash n klen slen plen) s₂ = .next t₂ ∧
      t₁.response = t₂.response ∧ t₁.status = t₂.status ∧ t₁.response.isSome) ∨
    (∃ r, exec (.hash n klen slen plen) s₁ = .refused r ∧ exec (.hash n klen slen plen) s₂ = .refused r) := by
  have hlen : inputLength klen s₂ = inputLength klen s₁ := by rw [inputLength, inputLength, hreq]
  cases hl : hashLengthError n klen slen plen with
  | some c =>
    exact .inl ⟨_, _, exec_hash_of_lengthError h₁ hl, exec_hash_of_lengthError h₂ hl, by simp, by simp, by simp⟩
  | none =>
    rcases Nat.lt_or_ge Config.maxInput (inputLength klen s₁) with hm | hm
    · exact .inr ⟨_, exec_hash_of_tooLong h₁ hl hm, exec_hash_of_tooLong h₂ hl (hlen ▸ hm)⟩
    · have hm₂ : inputLength klen s₂ ≤ Config.maxInput := hlen ▸ hm
      refine .inl ⟨_, _, exec_hash_of_legal h₁ hl hm, exec_hash_of_legal h₂ hl hm₂, ?_, ?_, ?_⟩
      · rw [hashEnd_response hl hm, hashEnd_response hl hm₂, hreq]
      · rw [hashEnd_status, hashEnd_status]
      · rw [hashEnd_response hl hm, Option.isSome_some]

end Sys2Proof.Machine

/-! ### Another request at the port (D26) -/

namespace Sys2Proof.Machine

open Sys2Proof.Safety

/-- The state with the request `r` at the port. -/
def withRequest (r : Request) (s : State) : State := { s with request := r }

/-- Two requests with the same message and, within the stated lengths, the same key, salt and personalization. -/
structure Request.AgreesWithin (klen slen plen : Nat) (r r' : Request) : Prop where
  msg : r.msg = r'.msg
  key : zeroFill r.keyD klen = zeroFill r'.keyD klen
  salt : zeroFill r.saltD slen = zeroFill r'.saltD slen
  pers : zeroFill r.persD plen = zeroFill r'.persD plen

/-- What HASH loads is all the same, and so all it looks at. -/
theorem loadRequest_withRequest {klen slen plen : Nat} {r : Request} {s : State}
    (h : r.AgreesWithin klen slen plen s.request) :
    loadRequest klen slen plen (withRequest r s) = withRequest r (loadRequest klen slen plen s) := by
  simp only [loadRequest, withRequest, h.msg, h.key, h.salt, h.pers]

@[simp] theorem withRequest_inq (r : Request) (s : State) : (withRequest r s).inq = s.inq := rfl

/-- F leaves `v` dead (R10). -/
@[simp] theorem compress_v (s : State) : (compress s).v = deadWords 16 s.draws 0 := by
  rw [compress_eq_rounds, fold_v, allRounds_frame]
  simp

theorem compress_withRequest (r : Request) (s : State) :
    compress (withRequest r s) = withRequest r (compress s) := by
  rw [compress_frame, compress_frame s]
  simp [withRequest, compress_h_eq_compressFn]

theorem absorbed_withRequest (r : Request) (s : State) :
    absorbed (withRequest r s) = withRequest r (absorbed s) :=
  compress_withRequest r (advanceCounter 64 (takeBlock 64 s))

theorem beforeFinal_withRequest (r : Request) (s : State) :
    beforeFinal (withRequest r s) = withRequest r (beforeFinal s) :=
  Function.Commute.iterate_left (absorbed_withRequest r) (nonFinalBlocks s) s

theorem finalized_withRequest (r : Request) (len : Nat) (s : State) :
    finalized len (withRequest r s) = withRequest r (finalized len s) :=
  compress_withRequest r (setLastBlock true { advanceCounter len (takeBlock len s) with phase := .final })

theorem hashStart_withRequest {n klen : Byte} {slen plen : Index} {r : Request} {s : State}
    (h : r.AgreesWithin klen.toNat slen.toNat plen.toNat s.request) :
    hashStart n klen slen plen (withRequest r s) = withRequest r (hashStart n klen slen plen s) := by
  rw [hashStart, loadRequest_withRequest h]
  rfl

/-- EXTRACT and the answer read registers only. -/
theorem respond_extracted_withRequest (r : Request) (n : Nat) (s : State) :
    respond n (extracted (withRequest r s)) = withRequest r (respond n (extracted s)) := rfl

theorem hashEnd_withRequest {n klen : Byte} {slen plen : Index} {r : Request} {s : State}
    (h : r.AgreesWithin klen.toNat slen.toNat plen.toNat s.request) :
    hashEnd n klen slen plen (withRequest r s) = withRequest r (hashEnd n klen slen plen s) := by
  simp only [hashEnd, hashFinal, hashStart_withRequest h, beforeFinal_withRequest, withRequest_inq, finalized_withRequest,
    respond_extracted_withRequest]

/-- Presenting a request that agrees within the lengths, before HASH or after it, is the same. -/
theorem exec_hash_withRequest {n klen : Byte} {slen plen : Index} {r : Request} {s : State}
    (h : r.AgreesWithin klen.toNat slen.toNat plen.toNat s.request) :
    exec (.hash n klen slen plen) (withRequest r s) = mapNext (withRequest r) (exec (.hash n klen slen plen) s) := by
  have hlen : inputLength klen (withRequest r s) = inputLength klen s := by
    rw [inputLength, withRequest, h.msg, inputLength]
  by_cases h0 : s.phase = .idle
  · have h0' : (withRequest r s).phase = .idle := h0
    cases hl : hashLengthError n klen slen plen with
    | some c => rw [exec_hash_of_lengthError h0 hl, exec_hash_of_lengthError h0' hl]; rfl
    | none =>
      rcases Nat.lt_or_ge Config.maxInput (inputLength klen s) with hm | hm
      · rw [exec_hash_of_tooLong h0 hl hm, exec_hash_of_tooLong h0' hl (hlen ▸ hm)]; rfl
      · rw [exec_hash_of_legal h0 hl hm, exec_hash_of_legal h0' hl (hlen ▸ hm), hashEnd_withRequest h]; rfl
  · have h0' : (withRequest r s).phase ≠ .idle := h0
    rw [exec_hash_of_busy h0, exec_hash_of_busy h0']
    rfl

end Sys2Proof.Machine

/-! ### The obligations -/

namespace Sys2Proof.Proofs

open Sys2Proof.Machine Sys2Proof.Safety

/-- Settles O36: HASH ends in `hashEnd`, whose buffer starts with HASH_fn's digest. -/
theorem hashAnswersItsDigest : Obligations.HashAnswersItsDigest := by
  unfold Obligations.HashAnswersItsDigest
  intro n klen slen plen s h0 hn hn' hk hs hp hm
  have hl := (hashLengthError_eq_none n klen slen plen).2 ⟨hn, hn', hk, hs, hp⟩
  have hD := take_hashEnd_D (s := s) hl hm
  refine ⟨hashEnd n klen slen plen s, requestDigest n klen slen plen s.request, exec_hash_of_legal h0 hl hm,
    hashEnd_response hl hm, hashEnd_status .., rfl, ?_, hD.symm, hashEnd_phase .., hashEnd_keeps h0 hl hm⟩
  rw [← hD, List.length_take, Vector.length_toList, Nat.min_eq_left hn']

/-- Settles O37: HASH256 is the call of HASH with the default lengths, which take nothing of the three fields. -/
theorem hash256IsDefaultHash : Obligations.Hash256IsDefaultHash := by
  unfold Obligations.Hash256IsDefaultHash
  refine ⟨exec_hash256_eq, fun s h0 hm => ?_⟩
  have hl : hashLengthError 32 0 0 0 = none := rfl
  have hm' : inputLength 0 s ≤ Config.maxInput := by simpa [inputLength] using hm
  exact ⟨hashEnd 32 0 0 0 s, (exec_hash256_eq s).trans (exec_hash_of_legal h0 hl hm'), hashEnd_status ..,
    hashEnd_response hl hm'⟩

/-- Settles O40: the step executes the waiting word, and HASH answers by its checks and HASH_fn of the request. -/
theorem responseDependsOnRequestAlone : Obligations.ResponseDependsOnRequestAlone := by
  unfold Obligations.ResponseDependsOnRequestAlone
  intro s₁ s₂ i hreq h₁ h₂ hp₁ hp₂ hr₁ hr₂ hd hi
  have hagree := exec_hash_response_congr (s₁ := accept s₁) (s₂ := accept s₂) hreq h₁ h₂
  rw [stepRunsWaitingWord s₁ i hr₁ hp₁ hd, stepRunsWaitingWord s₂ i hr₂ hp₂ (hreq ▸ hd)]
  rcases hi with rfl | ⟨n, klen, slen, plen, rfl⟩
  · rw [exec_hash256_eq, exec_hash256_eq]
    exact hagree 32 0 0 0
  · exact hagree n klen slen plen

/-- Settles O41: the other request agrees within the lengths, and HASH carries it through unread beyond them. -/
theorem bytesBeyondLengthsAreIgnored : Obligations.BytesBeyondLengthsAreIgnored := by
  unfold Obligations.BytesBeyondLengthsAreIgnored
  intro n klen slen plen s key salt pers hkey hsalt hpers
  have hcomm := exec_hash_withRequest (n := n) (klen := klen) (slen := slen) (plen := plen) (s := s)
    (r := { s.request with keyD := key, saltD := salt, persD := pers })
    ⟨rfl, zeroFill_congr hkey, zeroFill_congr hsalt, zeroFill_congr hpers⟩
  cases h : exec (.hash n klen slen plen) s with
  | next t => rwa [h] at hcomm
  | fault f => rwa [h] at hcomm
  | refused r => rwa [h] at hcomm

/-- Settles O39: the model's input length counts the key block as the statement does. -/
theorem tooLongInputIsRefused : Obligations.TooLongInputIsRefused := by
  unfold Obligations.TooLongInputIsRefused
  intro n klen slen plen s h0 hn hn' hk hs hp hm
  refine exec_hash_of_tooLong h0 ((hashLengthError_eq_none n klen slen plen).2 ⟨hn, hn', hk, hs, hp⟩) ?_
  rw [inputLength]
  split_ifs at hm ⊢ <;> omega

end Sys2Proof.Proofs

/-! PROOFS, family 60_exceptions: the length errors in their order (R181 to R183), the words that raise ProtocolError (R187),
what each word does to `status` and the response (R184), and the obligations they settle. -/

/-! ### The length checks of HASH, lowest code first (R183) -/

namespace Sys2Proof.Machine

theorem hashLengthError_of_badDigestLength {n : Byte} (hn : n.toNat < 1 ∨ 32 < n.toNat) (klen : Byte)
    (slen plen : Index) : hashLengthError n klen slen plen = some .badDigestLength := by
  rw [hashLengthError, if_pos hn]

theorem hashLengthError_of_badKeyLength {n klen : Byte} (hn : 1 ≤ n.toNat) (hn' : n.toNat ≤ 32)
    (hk : 32 < klen.toNat) (slen plen : Index) : hashLengthError n klen slen plen = some .badKeyLength := by
  rw [hashLengthError, if_neg (by omega), if_pos hk]

theorem hashLengthError_of_badSaltLength {n klen : Byte} {slen : Index} (hn : 1 ≤ n.toNat) (hn' : n.toNat ≤ 32)
    (hk : klen.toNat ≤ 32) (hs : 8 < slen.toNat) (plen : Index) :
    hashLengthError n klen slen plen = some .badSaltLength := by
  rw [hashLengthError, if_neg (by omega), if_neg (by omega), if_pos hs]

theorem hashLengthError_of_badPersLength {n klen : Byte} {slen plen : Index} (hn : 1 ≤ n.toNat) (hn' : n.toNat ≤ 32)
    (hk : klen.toNat ≤ 32) (hs : slen.toNat ≤ 8) (hp : 8 < plen.toNat) :
    hashLengthError n klen slen plen = some .badPersLength := by
  rw [hashLengthError, if_neg (by omega), if_neg (by omega), if_neg (by omega), if_pos hp]

end Sys2Proof.Machine

/-! ### Words out of their phase or with a wrong length (R138, R187) -/

namespace Sys2Proof.Machine

open Sys2Proof.Safety

theorem exec_init_of_busy {s : State} (h0 : s.phase ≠ .idle) (n k : Byte) :
    exec (.init n k) s = .next (afterException 6 s) := by
  rw [exec, execInit, initState, if_neg h0, conclude_protocolError]

theorem exec_absorb_of_phase_ne {s : State} (hp : s.phase ≠ .continuing) :
    exec .absorb s = .next (afterException 6 s) := by
  rw [exec, execAbsorb, absorbState, if_neg fun h => hp h.1, conclude_protocolError]

/-- FINAL needs phase CONTINUING and takes exactly what waits in the queue (R132). -/
theorem exec_final_of_not_ready {len : BitVec 7} {s : State} (h64 : len.toNat ≤ 64)
    (h : ¬ (s.phase = .continuing ∧ len.toNat = s.inq.length)) : exec (.final len) s = .next (afterException 6 s) := by
  rw [exec, execFinal, if_pos (by simpa [lengthInRange] using h64), finalState, if_neg h, conclude_protocolError]

theorem code_eq_six_iff (c : Cause) : c.code = 6 ↔ c = .protocolError := by
  cases c <;> decide

/-- On an idle core HASH raises a length error or none, so it never answers ProtocolError (R187). -/
theorem exec_hash_status_ne_six {n klen : Byte} {slen plen : Index} {s t : State} (h0 : s.phase = .idle)
    (h : exec (.hash n klen slen plen) s = .next t) : t.status ≠ 6 := by
  rw [exec, execHash] at h
  rcases hashState_next h with ⟨c, rfl, hc⟩ | ⟨-, u, rfl, -⟩
  · rw [takeException_status, Ne, code_eq_six_iff, hc]
    exact not_not_intro h0
  · rw [respond_status]
    decide

end Sys2Proof.Machine

/-! ### `status` and the response (R22, R184) -/

namespace Sys2Proof.Machine

@[simp] theorem initialized_status (n k : Byte) (s : State) : (initialized n k s).status = s.status := by
  rw [initialized_frame]

@[simp] theorem initialized_response (n k : Byte) (s : State) : (initialized n k s).response = s.response := by
  rw [initialized_frame]

@[simp] theorem roundSteps_status (r : Fin 10) (s : State) : (roundSteps r s).status = s.status := by
  rw [roundSteps_frame]

@[simp] theorem roundSteps_response (r : Fin 10) (s : State) : (roundSteps r s).response = s.response := by
  rw [roundSteps_frame]

@[simp] theorem absorbed_status (s : State) : (absorbed s).status = s.status := by rw [absorbed_frame]

@[simp] theorem absorbed_response (s : State) : (absorbed s).response = s.response := by rw [absorbed_frame]

@[simp] theorem finalized_status (len : Nat) (s : State) : (finalized len s).status = s.status := by simp [finalized]

@[simp] theorem finalized_response (len : Nat) (s : State) : (finalized len s).response = s.response := by
  simp [finalized]

@[simp] theorem extracted_status (s : State) : (extracted s).status = s.status := by
  rw [extracted, releaseInvocation_status]

@[simp] theorem extracted_response (s : State) : (extracted s).response = s.response := by
  rw [extracted, releaseInvocation_response]

/-- The words that end a transaction and so write `status` when they succeed (R160, R162). -/
def IsHashWord (i : Instr) : Prop := i = .hash256 ∨ ∃ n klen slen plen, i = .hash n klen slen plen

/-- The answer of a transaction that succeeded (R161). -/
def AnsweredDigest (t : State) : Prop := t.status = 0 ∧ ∃ d, t.response = some ⟨0, some d⟩

theorem answeredDigest_respond (n : Nat) (s : State) : AnsweredDigest (respond n s) :=
  ⟨respond_status n s, _, respond_response n s⟩

/-- A control word's effect leaves `status` and the response alone, but for HASH's answer. -/
theorem Effect.status_response {i : Instr} {s t : State} (h : Effect i s t) :
    (t.status = s.status ∧ t.response = s.response) ∨ (IsHashWord i ∧ AnsweredDigest t) := by
  cases i with
  | g a b c d sx sy => obtain ⟨rfl, -⟩ := h; simp
  | vinit => obtain ⟨rfl, -⟩ := h; simp
  | fold => obtain ⟨rfl, -⟩ := h; simp
  | round r => obtain ⟨hr, rfl, -⟩ := h; simp
  | f => obtain ⟨rfl, -⟩ := h; simp
  | init n k => obtain ⟨rfl, -⟩ := h; simp
  | absorb => obtain ⟨rfl, -⟩ := h; simp
  | final len => obtain ⟨rfl, -⟩ := h; simp
  | extract => obtain ⟨rfl, -⟩ := h; simp
  | hash n klen slen plen =>
    obtain ⟨-, u, rfl, -⟩ := h
    exact .inr ⟨.inr ⟨n, klen, slen, plen, rfl⟩, answeredDigest_respond ..⟩
  | hash256 =>
    obtain ⟨-, u, rfl, -⟩ := h
    exact .inr ⟨.inl rfl, answeredDigest_respond ..⟩

end Sys2Proof.Machine

/-! ### The obligations -/

namespace Sys2Proof.Proofs

open Sys2Proof.Machine Sys2Proof.Safety

/-- Settles O38: the first check that fails names the cause, and HASH and INIT on an idle core raise it. -/
theorem lengthErrorsComeFirst : Obligations.LengthErrorsComeFirst := by
  unfold Obligations.LengthErrorsComeFirst
  intro n klen slen plen s h0
  refine ⟨fun hn => ⟨?_, ?_⟩, fun hn hn' hk => ⟨?_, ?_⟩, fun hn hn' hk hs => ?_, fun hn hn' hk hs hp => ?_⟩
  · exact exec_hash_of_lengthError h0 (hashLengthError_of_badDigestLength hn klen slen plen)
  · exact exec_init_of_lengthError h0 (initLengthError_of_badDigestLength hn klen)
  · exact exec_hash_of_lengthError h0 (hashLengthError_of_badKeyLength hn hn' hk slen plen)
  · exact exec_init_of_lengthError h0 (initLengthError_of_badKeyLength hn hn' hk)
  · exact exec_hash_of_lengthError h0 (hashLengthError_of_badSaltLength hn hn' hk hs plen)
  · exact exec_hash_of_lengthError h0 (hashLengthError_of_badPersLength hn hn' hk hs hp)

/-- Settles O42: R187's list word by word; HASH256 is a HASH (R162). -/
theorem protocolErrorsAreRaised : Obligations.ProtocolErrorsAreRaised := by
  unfold Obligations.ProtocolErrorsAreRaised
  intro s
  refine ⟨fun hp => ⟨exec_init_of_busy hp, exec_hash_of_busy hp, ?_⟩,
    fun hp => ⟨exec_absorb_of_phase_ne hp, fun len h64 => exec_final_of_not_ready h64 fun h => hp h.1⟩,
    exec_absorb_of_inq_le, fun len h64 hlen => exec_final_of_not_ready h64 fun h => hlen h.2,
    exec_extract_of_phase_ne, exec_vinit_of_unwritten, exec_fold_of_unwritten, exec_f_of_unwritten,
    fun hw => ⟨fun r hr => exec_round_of_unwritten hr hw,
      fun a b c d sx sy hi => exec_g_of_unwritten (distinctIndices_of_pairwise hi) hw⟩, ?_⟩
  · rw [exec_hash256_eq]
    exact exec_hash_of_busy hp 32 0 0 0
  · rintro h0 t (h | ⟨n, klen, slen, plen, h⟩)
    · rw [exec_hash256_eq] at h
      exact exec_hash_status_ne_six h0 h
    · exact exec_hash_status_ne_six h0 h

/-- Settles O43: by the inversion of `exec`; an exception's entry is R184's, and an effect is `Effect.status_response`'s. -/
theorem exceptionsWriteOnlyStatus : Obligations.ExceptionsWriteOnlyStatus := by
  unfold Obligations.ExceptionsWriteOnlyStatus
  intro i s t h
  rcases exec_cases h with ⟨c, rfl⟩ | he
  · exact .inr (.inl ⟨c, rfl⟩)
  · exact he.status_response.imp_right .inr

/-- Settles O4: the step serves the request, and a word that does not decode raises IllegalControlWord after `accept`. -/
theorem illegalWordRaises : Obligations.IllegalWordRaises := by
  unfold Obligations.IllegalWordRaises
  intro s hr hp hd
  exact (step_eq_serveRequest hr hp).trans (serveRequest_of_decode_error hd)

end Sys2Proof.Proofs

/-! PROOFS, family 70_reset_and_hazards: what a step answers without a waiting request (R210), that two G on disjoint slots
commute (R213), and the obligations they settle. -/

/-! ### A step that serves no request (R39, R41, R210) -/

namespace Sys2Proof.Machine

theorem step_eq_resetCore {s : State} (hr : s.resetPin = true) : step s = .next (resetCore s) := by
  rw [step, advance, if_pos hr]

theorem step_eq_self {s : State} (hr : s.resetPin = false) (hp : s.pending = false) : step s = .next s := by
  simp [step, advance, hr, hp]

end Sys2Proof.Machine

/-! ### Two G on disjoint slots (R83, R213) -/

namespace Sys2Proof.Machine

open Sys2Proof.Safety

section

variable {a b c d a' b' c' d' : Index}

/-- On the slots of one G it does not matter whether the other runs before or after: before, it leaves the words this G
reads; after, it leaves the words this G has written (R83). -/
theorem getReg_mixVector_mixVector_of_mem (v : Vector Word 16) (hi : distinctIndices a b c d = true)
    (hdisj : [a, b, c, d].Disjoint [a', b', c', d']) (x y x' y' : Word) {i : Index} (hmem : i ∈ [a, b, c, d]) :
    getReg (mixVector (mixVector v a' b' c' d' x' y') a b c d x y) i =
      getReg (mixVector (mixVector v a b c d x y) a' b' c' d' x' y') i := by
  have hreads : ∀ j ∈ [a, b, c, d], getReg (mixVector v a' b' c' d' x' y') j = getReg v j :=
    fun j hj => getReg_mixVector_of_not_mem v (hdisj hj) x' y'
  calc getReg (mixVector (mixVector v a' b' c' d' x' y') a b c d x y) i
      = getReg (mixVector v a b c d x y) i := getReg_mixVector_congr hi hreads rfl rfl i hmem
    _ = getReg (mixVector (mixVector v a b c d x y) a' b' c' d' x' y') i :=
      (getReg_mixVector_of_not_mem _ (hdisj hmem) x' y').symm

theorem mixVector_comm (v : Vector Word 16) (hi : distinctIndices a b c d = true)
    (hi' : distinctIndices a' b' c' d' = true) (hdisj : [a, b, c, d].Disjoint [a', b', c', d']) (x y x' y' : Word) :
    mixVector (mixVector v a b c d x y) a' b' c' d' x' y' = mixVector (mixVector v a' b' c' d' x' y') a b c d x y := by
  refine ext_getReg fun i => ?_
  by_cases hmem : i ∈ [a, b, c, d]
  · exact (getReg_mixVector_mixVector_of_mem v hi hdisj x y x' y' hmem).symm
  by_cases hmem' : i ∈ [a', b', c', d']
  · exact getReg_mixVector_mixVector_of_mem v hi' hdisj.symm x' y' x y hmem'
  · simp only [getReg_mixVector_of_not_mem _ hmem, getReg_mixVector_of_not_mem _ hmem']

theorem mix_comm (s : State) (hi : distinctIndices a b c d = true) (hi' : distinctIndices a' b' c' d' = true)
    (hdisj : [a, b, c, d].Disjoint [a', b', c', d']) (sx sy sx' sy' : Index) :
    mix a' b' c' d' sx' sy' (mix a b c d sx sy s) = mix a b c d sx sy (mix a' b' c' d' sx' sy' s) := by
  simp only [mix, mixVector_comm s.v hi hi' hdisj]

theorem execAll_two_g {s : State} (hi : distinctIndices a b c d = true) (hi' : distinctIndices a' b' c' d' = true)
    (hv : s.written.v = true) (hm : s.written.m = true) (sx sy sx' sy' : Index) :
    execAll [.g a b c d sx sy, .g a' b' c' d' sx' sy'] s =
      .next (mix a' b' c' d' sx' sy' (mix a b c d sx sy s)) := by
  rw [execAll_cons_of_next (exec_g_of_written sx sy hi hv hm)]
  exact execAll_singleton_of_next (exec_g_of_written sx' sy' hi' (by rwa [mix_written]) (by rwa [mix_written]))

end

end Sys2Proof.Machine

/-! ### The obligations -/

namespace Sys2Proof.Proofs

open Sys2Proof.Machine Sys2Proof.Safety

/-- Settles O15: both orders complete (`execAll_two_g`), and their states are one by `mix_comm`. -/
theorem disjointGCommute : Obligations.DisjointGCommute := by
  unfold Obligations.DisjointGCommute
  intro a b c d sx sy a' b' c' d' sx' sy' s hpair hv hm
  obtain ⟨hleft, hright, hdisj⟩ := (List.nodup_append' (l₁ := [a, b, c, d])).1 hpair
  have hi := distinctIndices_of_pairwise hleft
  have hi' := distinctIndices_of_pairwise hright
  refine ⟨_, execAll_two_g hi hi' hv hm sx sy sx' sy', ?_⟩
  rw [execAll_two_g hi' hi hv hm, mix_comm s hi hi' hdisj]

/-- Settles O1: the signal's step is `resetCore`, whose fields are R210's rest state, with neither the signal nor a request
left; so the next step, as every step with neither, answers the state itself. -/
theorem resetSignalEntersRestState : Obligations.ResetSignalEntersRestState := by
  unfold Obligations.ResetSignalEntersRestState
  refine ⟨fun s hr => ?_, fun s => step_eq_self⟩
  exact ⟨resetCore s, step_eq_resetCore hr, resetCore_phase s, resetCore_pc s, resetCore_status s, resetCore_inq s,
    resetCore_f1 s, resetCore_pending s, resetCore_response s, resetCore_digestOut s, resetCore_written s,
    step_eq_self (resetCore_resetPin s) (resetCore_pending s)⟩

end Sys2Proof.Proofs
